-- ==== Sys2Proof/Word.lean ====
section
/-! DEFINITION. The word types of the core: an element of GF(2^191), the three-bit operation code and
the two-bit error code. Rules R7 and R20 of the spec fix their widths and their bit numbering: bit `i`
of an element is the coefficient of x^i. -/

namespace Sys2Proof

/-- An element of GF(2^191): a 191-bit vector, every pattern legal (R20). -/
abbrev Elem := BitVec 191

/-- A value that may hold the reduction polynomial, whose bit 191 is set (R22, R37). -/
abbrev Wide := BitVec 192

/-- The operation code on port `op` (R6: OP_W = 3). -/
abbrev OpCode := BitVec 3

/-- The error code on port `err` (R6: ERR_W = 2). -/
abbrev ErrBits := BitVec 2

/-- The additive identity, the element with every bit clear (R71). -/
abbrev zeroElem : Elem := 0#191

/-- The multiplicative identity, the element with only bit 0 set (R71). -/
abbrev oneElem : Elem := 1#191

end Sys2Proof
end

