-- ==== Sys2Proof/Config.lean ====
section
/-! DEFINITION. What the spec leaves open. EXP_W and LAT are parameters of the hardware (R6); the value
of a register the spec calls unspecified after a reset is a free value (R39, R150). EXP_W is a field of
State, so every statement over all states holds for every EXP_W; LAT and the pace of the units are
gathered in `Timing`, so the edge function can be stated for every timing; the machine itself uses the
opaque timing below, of which no proof can know a value. -/

namespace Sys2Proof

/-- The EXP_W of every example of the spec (R6). DESIGN CHOICE: `State.reset` is the reset state of a
core with this width (log 1). -/
abbrev Config.expWExample : Nat := 192

/-- When a core answers and how fast its units work. `extra op a b n` is LAT − 1 of the accepted
command (R6, R157: LAT is an integer of at least 1); `pace op a b n left` is how many loop steps the
selected unit takes at the working edge at which `left` edges are still to go (R167 leaves this free). -/
structure Timing where
  extra : OpCode → Elem → Elem → Nat → Nat
  pace : OpCode → Elem → Elem → Nat → Nat → Nat

/-- LAT of a command: the number of edges from its accepting to its completing edge (R157). -/
def Timing.lat (t : Timing) (op : OpCode) (a b : Elem) (n : Nat) : Nat := t.extra op a b n + 1

/-- Free value: LAT − 1 of a command (R6, R167; log 2). -/
opaque Config.extraEdges : OpCode → Elem → Elem → Nat → Nat

/-- Free value: the loop steps a unit takes at one working edge (R167; log 3). -/
opaque Config.stepsAtEdge : OpCode → Elem → Elem → Nat → Nat → Nat

/-- The timing of the machine: every part of it free. -/
def Config.timing : Timing := ⟨Config.extraEdges, Config.stepsAtEdge⟩

/-- The registers that a reset leaves unspecified (R39). -/
inductive UnspecifiedReg where
  | opc | opa | opb | opn
  | macc | ma | mi
  | sw | si
  | ea | eb | eu | ev
  | pr | pb | pn
  deriving DecidableEq, Repr

/-- Free value: what a register holds after the `k`-th reset edge, possibly different after each
(R39, R150; log 4). The register keeps as many low bits as it has. -/
opaque Config.unspecified : UnspecifiedReg → Nat → Nat

end Sys2Proof
end

