-- ==== Sys2Proof/Syntax.lean ====
section
/-! DEFINITION. The commands of the core, one constructor per row of spec/opcode_table.json (R52).
A command is the tuple (op, a, b, n) of R50; every command carries all three operand fields, those it
does not read included, because the core latches them all (R31, R46, R53) and the command word
encodes them all. -/

namespace Sys2Proof

/-- A command: an operation with the values of `a`, `b` and `n`. The exponent is the unsigned
integer the port carries (R51); that it fits the port's EXP_W wires is `Instr.wellFormed`. -/
inductive Instr where
  /-- ADD, op 0 (R80): reads `a` and `b`. -/
  | add (a b : Elem) (n : Nat)
  /-- MUL, op 1 (R85): reads `a` and `b`. -/
  | mul (a b : Elem) (n : Nat)
  /-- SQR, op 2 (R95): reads `a`. -/
  | sqr (a b : Elem) (n : Nat)
  /-- INV, op 3 (R105): reads `a`. -/
  | inv (a b : Elem) (n : Nat)
  /-- POW, op 4 (R120): reads `a` and `n`. -/
  | pow (a b : Elem) (n : Nat)
  /-- The reserved code 5 (R54): reads nothing. -/
  | rsv5 (a b : Elem) (n : Nat)
  /-- The reserved code 6 (R54): reads nothing. -/
  | rsv6 (a b : Elem) (n : Nat)
  /-- The reserved code 7 (R54): reads nothing. -/
  | rsv7 (a b : Elem) (n : Nat)
  deriving DecidableEq, Repr

/-- The value of the field `a`. -/
def Instr.fieldA : Instr → Elem
  | .add a _ _ => a
  | .mul a _ _ => a
  | .sqr a _ _ => a
  | .inv a _ _ => a
  | .pow a _ _ => a
  | .rsv5 a _ _ => a
  | .rsv6 a _ _ => a
  | .rsv7 a _ _ => a

/-- The value of the field `b`. -/
def Instr.fieldB : Instr → Elem
  | .add _ b _ => b
  | .mul _ b _ => b
  | .sqr _ b _ => b
  | .inv _ b _ => b
  | .pow _ b _ => b
  | .rsv5 _ b _ => b
  | .rsv6 _ b _ => b
  | .rsv7 _ b _ => b

/-- The value of the field `n`. -/
def Instr.fieldN : Instr → Nat
  | .add _ _ n => n
  | .mul _ _ n => n
  | .sqr _ _ n => n
  | .inv _ _ n => n
  | .pow _ _ n => n
  | .rsv5 _ _ n => n
  | .rsv6 _ _ n => n
  | .rsv7 _ _ n => n

end Sys2Proof
end

