-- ==== Sys2Proof/WellFormed.lean ====
section
/-! DEFINITION. Which commands can be put on the ports. The one thing that can be wrong with a command
is an exponent of 2^EXP_W or more: the port `n` has EXP_W wires and cannot carry it (R6, R122, R165 and
row U13 of spec/93_implementation_defined.md). Every element is legal (R20), every operation code is
legal (R55). -/

namespace Sys2Proof

/-- The exponent fits a port of `expW` wires (R46, R51). -/
def exponentFits (expW n : Nat) : Bool := decide (n < 2 ^ expW)

/-- The command can stand on the ports of a core whose exponent port is `expW` wires wide. -/
def Instr.wellFormed (expW : Nat) (i : Instr) : Bool := exponentFits expW i.fieldN

end Sys2Proof
end

