-- ==== Sys2Proof/Decode.lean ====
section
/-! DEFINITION. The decoder and the encoder of a command. The hardware receives the four fields on four
ports (R50); `decodeFields` reads the operation code of R52, all eight values. The packed word
CMD = (n, b, a, op) of R50, with `op` in its low bits, is how the spec writes a command down: `decode`
takes such a word apart and hands its fields to `decodeFields`, and `encode` packs one. -/

namespace Sys2Proof

/-- The lowest bit of field `a` in CMD (R50: bits 193 to 3). -/
def aLow : Nat := 3
/-- The lowest bit of field `b` in CMD (R50: bits 384 to 194). -/
def bLow : Nat := 194
/-- The lowest bit of field `n` in CMD (R50: bits 384 + EXP_W to 385). -/
def nLow : Nat := 385

/-- The width of a command word: 385 + EXP_W bits (R50). -/
def commandWidth (expW : Nat) : Nat := nLow + expW

/-- The field `op` of a command word. -/
def wordOp (w : Nat) : OpCode := BitVec.ofNat 3 w
/-- The field `a` of a command word. -/
def wordA (w : Nat) : Elem := BitVec.ofNat 191 (w >>> aLow)
/-- The field `b` of a command word. -/
def wordB (w : Nat) : Elem := BitVec.ofNat 191 (w >>> bLow)
/-- The field `n` of a command word: every bit from 385 up. -/
def wordN (w : Nat) : Nat := w >>> nLow

/-- The command on the four ports, or in the four latches: the table of operation codes of R52. Total
(R55), each reserved code a command of its own (R54). -/
def decodeFields (op : OpCode) (a b : Elem) (n : Nat) : Instr :=
  match op.toFin with
  | 0 => .add a b n
  | 1 => .mul a b n
  | 2 => .sqr a b n
  | 3 => .inv a b n
  | 4 => .pow a b n
  | 5 => .rsv5 a b n
  | 6 => .rsv6 a b n
  | 7 => .rsv7 a b n

/-- Why a word is no command word. -/
inductive DecodeError where
  /-- A bit at position 385 + EXP_W or above is set: the word is longer than a command (R50). -/
  | wordTooWide
  deriving DecidableEq, Repr

/-- The command a word stands for, on a core whose exponent port is `expW` wires wide (R50, R52). -/
def decode (expW w : Nat) : Except DecodeError Instr :=
  if w >>> commandWidth expW = 0 then
    .ok (decodeFields (wordOp w) (wordA w) (wordB w) (wordN w))
  else .error .wordTooWide

/-- The operation code of a command (R52). -/
def Instr.opCode : Instr → OpCode
  | .add _ _ _ => 0#3
  | .mul _ _ _ => 1#3
  | .sqr _ _ _ => 2#3
  | .inv _ _ _ => 3#3
  | .pow _ _ _ => 4#3
  | .rsv5 _ _ _ => 5#3
  | .rsv6 _ _ _ => 6#3
  | .rsv7 _ _ _ => 7#3

/-- The word CMD of four fields (R50). -/
def packWord (op : OpCode) (a b : Elem) (n : Nat) : Nat :=
  op.toNat + a.toNat <<< aLow + b.toNat <<< bLow + n <<< nLow

/-- The command word of a command (R50). -/
def encode (i : Instr) : Nat := packWord i.opCode i.fieldA i.fieldB i.fieldN

/-- What the decoder reads from a word of `nbits` bits, every bit above them 0, on a core with the
EXP_W of the spec's examples. -/
def decodeTableWord (nbits w : Nat) : Option Instr :=
  match decode Config.expWExample (w % 2 ^ nbits) with
  | .ok i => some i
  | .error _ => none

end Sys2Proof
end

