-- ==== Sys2Proof/Machine/State.lean ====
section
/-! DEFINITION. The state of the core: the eight architectural registers of R26, the hidden working
registers of R35 to R38, and the model's own fields (the width parameter EXP_W, the edges left to the
completing edge, the input values of the coming edges, a counter of resets). The core has no memory, no
program counter and no register file (R26, R33, R40), so State has none. -/

namespace Sys2Proof.Machine

/-- The error codes of R131, OK left out. -/
inductive ErrCode where
  /-- DIV_BY_ZERO, code 1: INV of zero (R132). -/
  | divByZero
  /-- ILLEGAL_OP, code 2: a reserved operation code (R133). -/
  | illegalOp
  deriving DecidableEq, Repr

/-- The result of a command (R10): an element or an error code, never both. -/
inductive Result where
  | ok (c : Elem)
  | err (code : ErrCode)
  deriving DecidableEq, Repr

/-- The values on the input ports at one rising edge (R24). -/
structure Pins where
  rst : Bool
  start : Bool
  op : OpCode
  a : Elem
  b : Elem
  n : Nat
  deriving DecidableEq, Repr

/-- The multiplier's working registers (R35). -/
structure MulRegs where
  macc : Elem
  ma : Elem
  mi : BitVec 8
  deriving DecidableEq, Repr

/-- The squarer's working registers (R36). -/
structure SqrRegs where
  sw : BitVec 383
  si : BitVec 9
  deriving DecidableEq, Repr

/-- The inverter's working registers (R37). -/
structure InvRegs where
  ea : Wide
  eb : Wide
  eu : Elem
  ev : Elem
  deriving DecidableEq, Repr

/-- The exponentiation engine's working registers (R38). PN is EXP_W bits wide: see `State.legal`. -/
structure PowRegs where
  pr : Elem
  pb : Elem
  pn : Nat
  deriving DecidableEq, Repr

/-- The state of the core and of the wires that drive it. -/
structure State where
  /-- BUSY (R27). -/
  busy : Bool
  /-- DONE (R28). -/
  done : Bool
  /-- ERR (R29). -/
  err : ErrBits
  /-- C (R30). -/
  c : Elem
  /-- OPC (R31). -/
  opc : OpCode
  /-- OPA (R31). -/
  opa : Elem
  /-- OPB (R31). -/
  opb : Elem
  /-- OPN (R31), EXP_W bits wide: see `State.legal`. -/
  opn : Nat
  /-- MACC, MA, MI (R35). -/
  mulRegs : MulRegs
  /-- SW, SI (R36). -/
  sqrRegs : SqrRegs
  /-- EA, EB, EU, EV (R37). -/
  invRegs : InvRegs
  /-- PR, PB, PN (R38). -/
  powRegs : PowRegs
  /-- The model's own: the parameter EXP_W of this core (R6). No edge changes it. -/
  expW : Nat
  /-- The model's own: while BUSY = 1, the edges up to and with the completing edge (R157). -/
  edgesLeft : Nat
  /-- The model's own: what the host drives at the coming edges, the next one first; after the last
  entry the host drives an idle input (R41, R166; log 5). -/
  pins : List Pins
  /-- The model's own: how many reset edges there have been, the index of the free values of R39. -/
  resets : Nat
  deriving DecidableEq, Repr

/-- Why the machine stops with a fault: nothing does. The core never traps and never stops (R130); an
error is a response (`State.raise`). The type has no constructor. -/
inductive Fault where
  deriving DecidableEq, Repr

/-- Why the model refuses a step. -/
inductive Refusal where
  /-- An instruction without a meaning. No arm of exec raises it. Safe. -/
  | notModelled (mnemonic : String)
  /-- Raised at an accepting edge by inputs whose exponent is 2^EXP_W or more: the port cannot carry it
  (R122; row U13 of spec/93_implementation_defined.md says refuse). Safe: no behaviour is claimed. -/
  | exponentTooWide
  deriving DecidableEq, Repr

/-- The core right after a reset (R39, R150), its host driving nothing. BUSY, DONE, ERR and C are the
spec's; zero in the latches and in the hidden registers is a DESIGN CHOICE (log 6), EXP_W = 192 too
(log 1). -/
def State.reset : State where
  busy := false
  done := false
  err := 0#2
  c := zeroElem
  opc := 0#3
  opa := zeroElem
  opb := zeroElem
  opn := 0
  mulRegs := ⟨zeroElem, zeroElem, 0#8⟩
  sqrRegs := ⟨0#383, 0#9⟩
  invRegs := ⟨0#192, 0#192, zeroElem, zeroElem⟩
  powRegs := ⟨zeroElem, zeroElem, 0⟩
  expW := Config.expWExample
  edgesLeft := 0
  pins := []
  resets := 0

end Sys2Proof.Machine
end

