-- ==== Sys2Proof/Machine/Ops.lean ====
section
/-! DEFINITION. The shared operations. First the arithmetic the units share: the constant R, the mask,
the degree, the shift with its fold, the bit length and the repetition of a loop step. Then the shared
operations over State: what every completing edge writes, the error response (which is all the core has
in place of an exception, R130), the latching of a command, the reset edge, and the host's wires. -/

namespace Sys2Proof.Machine

/-- ReductionPolynomial, the constant R = 2^191 + 2^9 + 1 (R22). -/
def reductionPolynomial : Wide := 0x800000000000000000000000000000000000000000000201#192

/-- The low 191 bits of a 192-bit value, as a 192-bit value (R8). -/
def mask191 (p : Wide) : Wide := p &&& 0x7FFFFFFFFFFFFFFFFFFFFFFFFFFFFFFFFFFFFFFFFFFFFFFF#192

/-- The degree of a bit vector read as a polynomial: the position of its highest set bit, and −1 for
zero (R9). -/
def degree {w : Nat} (p : BitVec w) : Int := if p = 0 then -1 else (p.toNat.log2 : Int)

/-- The number of bits of `n` up to and with its highest set bit, 0 for 0 (R126). -/
def bitLength (n : Nat) : Nat := if n = 0 then 0 else n.log2 + 1

/-- An element times x: shift left by one into 192 bits and, if bit 191 got set, fold it back with R
(R85, R87). -/
def timesX (sa : Elem) : Elem :=
  let t : Wide := sa.setWidth 192 <<< 1
  (if t.getLsbD 191 then t ^^^ reductionPolynomial else t).setWidth 191

/-- `k` steps of a loop. -/
def repeatStep {α : Type} (f : α → α) : Nat → α → α
  | 0, x => x
  | k + 1, x => repeatStep f k (f x)

/-- The number of an error code on `err` (R131). -/
def ErrCode.bits : ErrCode → ErrBits
  | .divByZero => 1#2
  | .illegalOp => 2#2

/-- What a Result puts into ERR (R157): 0 for Ok, the code for Err. -/
def Result.errBits : Result → ErrBits
  | .ok _ => 0#2
  | .err code => code.bits

/-- What a Result puts into C (R30, R157): the element for Ok, the filler 0 for Err. -/
def Result.data : Result → Elem
  | .ok c => c
  | .err _ => zeroElem

/-- The completing edge's writes (R157): C, ERR, BUSY and DONE, all at one edge. -/
def State.respond (s : State) (res : Result) : State :=
  { s with c := res.data, err := res.errBits, busy := false, done := true, edgesLeft := 0 }

/-- The error response, the one thing that stands where a processor takes an exception (R130, R135): it
saves nothing, goes nowhere and needs no return (R136). -/
def State.raise (s : State) (code : ErrCode) : State := s.respond (.err code)

/-- The accepting edge's writes (R155): the four latches, BUSY and DONE; `lat` is the command's LAT.
C and ERR keep their values. -/
def State.latch (s : State) (op : OpCode) (a b : Elem) (n lat : Nat) : State :=
  { s with opc := op, opa := a, opb := b, opn := n, busy := true, done := false, edgesLeft := lat }

/-- A reset edge's writes (R150): BUSY, DONE, ERR and C are 0; the latches and the hidden registers
become free values, new at every reset (R39; log 4). -/
def State.resetEdge (s : State) : State :=
  let free := fun r => Config.unspecified r s.resets
  { s with
    busy := false, done := false, err := 0#2, c := zeroElem
    opc := BitVec.ofNat 3 (free .opc)
    opa := BitVec.ofNat 191 (free .opa)
    opb := BitVec.ofNat 191 (free .opb)
    opn := free .opn % 2 ^ s.expW
    mulRegs := ⟨BitVec.ofNat 191 (free .macc), BitVec.ofNat 191 (free .ma), BitVec.ofNat 8 (free .mi)⟩
    sqrRegs := ⟨BitVec.ofNat 383 (free .sw), BitVec.ofNat 9 (free .si)⟩
    invRegs := ⟨BitVec.ofNat 192 (free .ea), BitVec.ofNat 192 (free .eb),
      BitVec.ofNat 191 (free .eu), BitVec.ofNat 191 (free .ev)⟩
    powRegs := ⟨BitVec.ofNat 191 (free .pr), BitVec.ofNat 191 (free .pb), free .pn % 2 ^ s.expW⟩
    edgesLeft := 0
    resets := s.resets + 1 }

/-- A host that asks for nothing: `rst` = 0, `start` = 0 and zeros. -/
def Pins.idle : Pins := ⟨false, false, 0#3, zeroElem, zeroElem, 0⟩

/-- The input values the coming edge samples (R14; log 5). -/
def State.nextPins (s : State) : Pins := s.pins.headD Pins.idle

/-- The state with the coming edge's input values behind it. -/
def State.advancePins (s : State) : State := { s with pins := s.pins.tail }

/-- The state whose coming edge does not sample `rst` = 1; nothing else about its inputs is changed. -/
def State.releaseReset (s : State) : State :=
  { s with pins := s.pins.modifyHead fun p => { p with rst := false } }

end Sys2Proof.Machine
end

