-- ==== Sys2Proof/Machine/Add.lean ====
section
/-! DEFINITION. ADD, unit gf2_191_adder (spec/41_add.md). The adder has no working register (R83). -/

namespace Sys2Proof.Machine

/-- ADD(a, b): bitwise exclusive or (R80). -/
def fieldAdd (a b : Elem) : Elem := a ^^^ b

/-- ADD at its completing edge (R80, R157). -/
def execAdd (a b : Elem) (s : State) : Host.Outcome State Fault Refusal :=
  .next (s.respond (.ok (fieldAdd a b)))

end Sys2Proof.Machine
end

