-- ==== Sys2Proof/Machine/Inverse.lean ====
section
/-! DEFINITION. INV, unit gf2_191_extended_euclid_inverter (spec/44_inverse.md): the function as the loop
of R105 with its zero test (R106), the unit's working registers as the step rule of R107, and the
command's meaning. The guard against an inverse that is not found is no part of the hardware (R114). -/

namespace Sys2Proof.Machine

/-- The inverter's registers when an INV of a nonzero operand starts (R107). -/
def invStart (a : Elem) : InvRegs := ⟨a.setWidth 192, reductionPolynomial, oneElem, zeroElem⟩

/-- The body of the loop of R105 and R107: a swap step or an exclusive-or step, chosen by the degrees.
The mask is applied to what an exclusive-or step writes, not after a swap (R110). -/
def euclidStep (r : InvRegs) : InvRegs :=
  if degree r.ea < degree r.eb then
    { ea := r.eb, eb := r.ea, eu := r.ev, ev := r.eu }
  else
    let j := (degree r.ea - degree r.eb).toNat
    { r with ea := mask191 (r.ea ^^^ (r.eb <<< j)), eu := r.eu ^^^ (r.ev <<< j) }

/-- The loop of R105 for at most `k` iterations, EA tested against 1 before each (R108). -/
def euclidLoop : Nat → InvRegs → InvRegs
  | 0, r => r
  | k + 1, r => if r.ea = 1#192 then r else euclidLoop k (euclidStep r)

/-- The most iterations a run can take (R113). -/
def euclidBound : Nat := 760

/-- INV(a): DivisionByZero for zero (R106), else the EU at which the loop of R105 ends (log 7). -/
def fieldInv (a : Elem) : Result :=
  if a = zeroElem then .err .divByZero else .ok (euclidLoop euclidBound (invStart a)).eu

/-- One step of the inverter, taken while EA ≠ 1 (R107). -/
def invStep (r : InvRegs) : InvRegs := if r.ea = 1#192 then r else euclidStep r

/-- The inverter's registers when EA = 1 (R107, R113). -/
def invFinish (a : Elem) : InvRegs := repeatStep invStep euclidBound (invStart a)

/-- The inverter at the end of its loop; for a zero operand the loop does not run and the working
registers stay as they are (R106, R135). -/
def State.finishInverter (s : State) (a : Elem) : State :=
  { s with invRegs := if a = zeroElem then s.invRegs else invFinish a }

/-- INV at its completing edge (R105, R132, R157): the inverse, or the error response DIV_BY_ZERO. -/
def execInv (a : Elem) (s : State) : Host.Outcome State Fault Refusal :=
  match fieldInv a with
  | .ok c => .next ((s.finishInverter a).respond (.ok c))
  | .err code => .next ((s.finishInverter a).raise code)

end Sys2Proof.Machine
end

