-- ==== Sys2Proof/Machine/Multiply.lean ====
section
/-! DEFINITION. MUL, unit gf2_191_multiplier_with_reduction (spec/42_multiply.md): the function as the
loop of R85, the unit's working registers as the step rule of R86, and the command's meaning. -/

namespace Sys2Proof.Machine

/-- The loop of R85 from bit `i` of `b` for `k` bits, on `acc` and `sa`. -/
def mulLoop (b : Elem) : (k i : Nat) → (acc sa : Elem) → Elem
  | 0, _, acc, _ => acc
  | k + 1, i, acc, sa => mulLoop b k (i + 1) (if b.getLsbD i then acc ^^^ sa else acc) (timesX sa)

/-- MUL(a, b): a times b modulo f, over the 191 bits of `b` from the least significant up (R85). -/
def fieldMul (a b : Elem) : Elem := mulLoop b 191 0 zeroElem a

/-- The multiplier's registers when a MUL starts (R86). -/
def mulStart (a : Elem) : MulRegs := ⟨zeroElem, a, 0#8⟩

/-- One step of the multiplier, taken while MI ≤ 190 (R86); `b` is OPB. -/
def mulStep (b : Elem) (u : MulRegs) : MulRegs :=
  if u.mi ≤ 190#8 then
    { macc := if b.getLsbD u.mi.toNat then u.macc ^^^ u.ma else u.macc
      ma := timesX u.ma
      mi := u.mi + 1#8 }
  else u

/-- The multiplier's registers when MI has reached 191 (R86: exactly 191 steps). -/
def mulFinish (a b : Elem) : MulRegs := repeatStep (mulStep b) 191 (mulStart a)

/-- MUL at its completing edge (R85, R157), its unit at the end of its loop. -/
def execMul (a b : Elem) (s : State) : Host.Outcome State Fault Refusal :=
  .next ({ s with mulRegs := mulFinish a b }.respond (.ok (fieldMul a b)))

end Sys2Proof.Machine
end

