-- ==== Sys2Proof/Machine/Square.lean ====
section
/-! DEFINITION. SQR, unit gf2_191_squarer (spec/43_square.md): the function as the two loops of R95, the
unit's working registers as the step rule of R96, and the command's meaning. -/

namespace Sys2Proof.Machine

/-- The spread of the low `k` bits of `a`: bit `i` of `a` goes to bit `2·i` (R95). -/
def spreadLow (a : Elem) : Nat → BitVec 383
  | 0 => 0#383
  | k + 1 => if a.getLsbD k then spreadLow a k ||| BitVec.twoPow 383 (2 * k) else spreadLow a k

/-- The spread of all 191 bits (R95, R96). -/
def spread (a : Elem) : BitVec 383 := spreadLow a 191

/-- The fold at position `i` (R95, R97): if bit `i` is set, exclusive or with R shifted by `i − 191`. -/
def foldAt (i : Nat) (w : BitVec 383) : BitVec 383 :=
  if w.getLsbD i then w ^^^ (reductionPolynomial.setWidth 383 <<< (i - 191)) else w

/-- The scan of R95 over the `k` positions from `190 + k` down to 191. -/
def foldDown : Nat → BitVec 383 → BitVec 383
  | 0, w => w
  | k + 1, w => foldDown k (foldAt (191 + k) w)

/-- SQR(a): spread, then reduce from position 382 down to 191 (R95). -/
def fieldSqr (a : Elem) : Elem := (foldDown 192 (spread a)).setWidth 191

/-- The squarer's registers when a SQR starts (R96). -/
def sqrStart (a : Elem) : SqrRegs := ⟨spread a, 382#9⟩

/-- One step of the squarer, taken while SI ≥ 191 (R96). -/
def sqrStep (u : SqrRegs) : SqrRegs :=
  if 191#9 ≤ u.si then { sw := foldAt u.si.toNat u.sw, si := u.si - 1#9 } else u

/-- The squarer's registers when SI has reached 190 (R96: 192 positions). -/
def sqrFinish (a : Elem) : SqrRegs := repeatStep sqrStep 192 (sqrStart a)

/-- SQR at its completing edge (R95, R157), its unit at the end of its scan. -/
def execSqr (a : Elem) (s : State) : Host.Outcome State Fault Refusal :=
  .next ({ s with sqrRegs := sqrFinish a }.respond (.ok (fieldSqr a)))

end Sys2Proof.Machine
end

