-- ==== Sys2Proof/Machine/Power.lean ====
section
/-! DEFINITION. POW, unit gf2_191_binary_exponentiation_engine (spec/45_power.md): the function as the
loop of R120, the unit's working registers as the step rule of R121, and the command's meaning. The
function is defined for every natural exponent (R122). The engine has its own multiplier and squarer in
this model, which R121 and R160 say cannot be told apart from sharing them (log 8). -/

namespace Sys2Proof.Machine

/-- The loop of R120 for at most `k` iterations. -/
def powLoop : (k : Nat) → (result base : Elem) → (e : Nat) → Elem
  | 0, result, _, _ => result
  | k + 1, result, base, e =>
    if e = 0 then result
    else powLoop k (if e.testBit 0 then fieldMul result base else result) (fieldSqr base) (e >>> 1)

/-- POW(a, n): right-to-left square and multiply (R120), one iteration per bit of `n` (R126). -/
def fieldPow (a : Elem) (n : Nat) : Elem := powLoop (bitLength n) oneElem a n

/-- The engine's registers when a POW starts (R121). -/
def powStart (a : Elem) (n : Nat) : PowRegs := ⟨oneElem, a, n⟩

/-- One step of the engine, taken while PN ≠ 0 (R121). -/
def powStep (u : PowRegs) : PowRegs :=
  if u.pn = 0 then u
  else
    { pr := if u.pn.testBit 0 then fieldMul u.pr u.pb else u.pr
      pb := fieldSqr u.pb
      pn := u.pn >>> 1 }

/-- The engine's registers when PN = 0 (R121, R126). -/
def powFinish (a : Elem) (n : Nat) : PowRegs := repeatStep powStep (bitLength n) (powStart a n)

/-- POW at its completing edge (R120, R157), its unit at the end of its loop; OPN is not changed (R124). -/
def execPow (a : Elem) (n : Nat) (s : State) : Host.Outcome State Fault Refusal :=
  .next ({ s with powRegs := powFinish a n }.respond (.ok (fieldPow a n)))

end Sys2Proof.Machine
end

