-- ==== Sys2Proof/Machine/Reserved.lean ====
section
/-! DEFINITION. The reserved operation codes 5, 6 and 7 (R54, R133): accepted like any command, no
arithmetic, the error response ILLEGAL_OP. -/

namespace Sys2Proof.Machine

/-- Operation code 5 at its completing edge (R54, R133). -/
def execRsv5 (s : State) : Host.Outcome State Fault Refusal := .next (s.raise .illegalOp)

/-- Operation code 6 at its completing edge (R54, R133). -/
def execRsv6 (s : State) : Host.Outcome State Fault Refusal := .next (s.raise .illegalOp)

/-- Operation code 7 at its completing edge (R54, R133). -/
def execRsv7 (s : State) : Host.Outcome State Fault Refusal := .next (s.raise .illegalOp)

end Sys2Proof.Machine
end

