-- ==== Sys2Proof/Machine/Dispatch.lean ====
section
/-! DEFINITION. What each command does at its completing edge: one arm per command (R56, R157). -/

namespace Sys2Proof.Machine

-- A pattern leaves out the fields the command does not read (R53).
def exec (i : Instr) (s : State) : Host.Outcome State Fault Refusal :=
  match i with
  | .add a b _ => Sys2Proof.Machine.execAdd a b s
  | .mul a b _ => Sys2Proof.Machine.execMul a b s
  | .sqr a _ _ => Sys2Proof.Machine.execSqr a s
  | .inv a _ _ => Sys2Proof.Machine.execInv a s
  | .pow a _ n => Sys2Proof.Machine.execPow a n s
  | .rsv5 _ _ _ => Sys2Proof.Machine.execRsv5 s
  | .rsv6 _ _ _ => Sys2Proof.Machine.execRsv6 s
  | .rsv7 _ _ _ => Sys2Proof.Machine.execRsv7 s

end Sys2Proof.Machine
end

