-- ==== Sys2Proof/Machine/Operands.lean ====
section
/-! DEFINITION. The operands. There are no registers to name, no immediates and no addressing modes
(R51): the operand forms are the three fields `a`, `b` and `n`, taken whole from the latches, and what
there is to say of them is which command reads which (R53) and whether an exponent fits its port. -/

namespace Sys2Proof.Machine

/-- The operand fields of a command (R50). -/
inductive OperandField where
  | a | b | n
  deriving DecidableEq, Repr

/-- Whether the command with this operation code reads this field (R53). -/
def readsField (op : OpCode) (f : OperandField) : Bool :=
  match f with
  | .a => op == 0#3 || op == 1#3 || op == 2#3 || op == 3#3 || op == 4#3
  | .b => op == 0#3 || op == 1#3
  | .n => op == 4#3

/-- The command in the latches OPC, OPA, OPB, OPN (R31), which the completing edge reads. -/
def State.latched (s : State) : Instr := decodeFields s.opc s.opa s.opb s.opn

/-- The command on the input ports (R50). -/
def Pins.command (p : Pins) : Instr := decodeFields p.op p.a p.b p.n

/-- The input values by which a host presents a command (R62, R166): `start` = 1 and its fields. -/
def presentPins (i : Instr) : Pins := ⟨false, true, i.opCode, i.fieldA, i.fieldB, i.fieldN⟩

end Sys2Proof.Machine
end

