-- ==== Sys2Proof/Machine/Units.lean ====
section
/-! DEFINITION. The units while a command is in work. Only the unit that OPC selects works (R160); the
adder and the reserved codes have no working registers (R34, R54). -/

namespace Sys2Proof.Machine

/-- The working registers of the unit OPC selects, initialised from the latches (R155): at the accepting
edge in this model, which R155 allows (log 9). An INV of zero starts no loop (R106). -/
def State.startUnit (s : State) : State :=
  { s with
    mulRegs := if s.opc = 1#3 then mulStart s.opa else s.mulRegs
    sqrRegs := if s.opc = 2#3 then sqrStart s.opa else s.sqrRegs
    invRegs := if s.opc = 3#3 ∧ s.opa ≠ zeroElem then invStart s.opa else s.invRegs
    powRegs := if s.opc = 4#3 then powStart s.opa s.opn else s.powRegs }

/-- `k` steps of the unit OPC selects (R86, R96, R107, R121); a unit that has finished stays. -/
def State.workUnit (s : State) (k : Nat) : State :=
  { s with
    mulRegs := if s.opc = 1#3 then repeatStep (mulStep s.opb) k s.mulRegs else s.mulRegs
    sqrRegs := if s.opc = 2#3 then repeatStep sqrStep k s.sqrRegs else s.sqrRegs
    invRegs := if s.opc = 3#3 ∧ s.opa ≠ zeroElem then repeatStep invStep k s.invRegs else s.invRegs
    powRegs := if s.opc = 4#3 then repeatStep powStep k s.powRegs else s.powRegs }

/-- A working edge (R159): only hidden registers move, and the completing edge comes one edge nearer. -/
def State.workEdge (s : State) (t : Timing) : State :=
  { s.workUnit (t.pace s.opc s.opa s.opb s.opn s.edgesLeft) with edgesLeft := s.edgesLeft - 1 }

end Sys2Proof.Machine
end

