-- ==== Sys2Proof/Machine/Edge.lean ====
section
/-! DEFINITION. The edge function: what one rising edge of `clk` does (R154), for any timing, and a run of
edges. -/

namespace Sys2Proof.Machine

/-- The command of `p` latched and its unit started, `lat` edges before its completing edge (R155). -/
def State.takeCommand (s : State) (p : Pins) (lat : Nat) : State :=
  (s.latch p.op p.a p.b p.n lat).startUnit

/-- An accepting edge (R155). An exponent the port cannot carry is refused (R122). -/
def acceptEdge (t : Timing) (p : Pins) (s : State) : Host.Outcome State Fault Refusal :=
  if exponentFits s.expW p.n then .next (s.takeCommand p (t.lat p.op p.a p.b p.n))
  else .refused .exponentTooWide

/-- The edge function of R154: reset, else accept, else complete, else nothing visible changes. All tests
use the values from before the edge. The completing edge is the one at which at most one edge is left; it
runs the command in the latches. -/
def edge (t : Timing) (s : State) : Host.Outcome State Fault Refusal :=
  let p := s.nextPins
  let s' := s.advancePins
  if p.rst then .next s'.resetEdge
  else if !s.busy then
    if p.start then acceptEdge t p s' else .next s'
  else if s.edgesLeft ≤ 1 then exec s.latched s'
  else .next (s'.workEdge t)

/-- `k` edges, ending early where an edge gives no next state. -/
def edges (t : Timing) : Nat → State → Host.Outcome State Fault Refusal
  | 0, s => .next s
  | k + 1, s =>
    match edge t s with
    | .next s' => edges t k s'
    | .fault r => .fault r
    | .refused r => .refused r

/-- A command word put where the machine takes its next command from, the four latches, with its completing
edge next: as if an accepting edge with LAT = 1 had just taken it (R155). The next edge's `rst` is
released, since a reset would win (R150). The exponent field keeps the low EXP_W bits, all that OPN has. -/
def State.loadCommand (s : State) (w : Nat) : State :=
  (s.takeCommand ⟨false, true, wordOp w, wordA w, wordB w, wordN w % 2 ^ s.expW⟩ 1).releaseReset

end Sys2Proof.Machine
end

