-- ==== Sys2Proof/Machine/Step.lean ====
section
/-! DEFINITION. The step: one rising edge of `clk` under the machine's own free timing. -/

namespace Sys2Proof.Machine

/-- One step is one rising edge (R14, R154). -/
def step (s : State) : Host.Outcome State Fault Refusal := edge Config.timing s

/-- The state in which the instruction `w` of `nbits` bits is the one the very next step runs. -/
def State.withFetchWord (s : State) (nbits w : Nat) : State := s.loadCommand (w % 2 ^ nbits)

end Sys2Proof.Machine
end

