-- ==== Sys2Proof/Machine/Construction.lean ====
section
/-! DEFINITION. Construction and the text form of an element (spec/40_construction.md): host functions, not
commands (R59). A string is a list of characters. RANDOM_ELEMENT is any element at all (R74), so it needs
no definition: a statement over all elements covers it. -/

namespace Sys2Proof.Machine

/-- FROM_VALUE(v): the low 191 bits, the rest dropped without an error (R70). -/
def fromValue (v : Nat) : Elem := BitVec.ofNat 191 v

/-- EQ(x, y): bitwise equality (R77). -/
def elemEq (x y : Elem) : Bool := x == y

/-- The upper-case hex digit of a 4-bit group (R75). -/
def hexChar (d : Nat) : Char :=
  if d < 10 then Char.ofNat (48 + d) else Char.ofNat (55 + d)

/-- The digits of the lowest `k` 4-bit groups, the most significant first. -/
def hexLow (v : Nat) : Nat → List Char
  | 0 => []
  | k + 1 => hexChar (v / 16 ^ k % 16) :: hexLow v k

/-- TO_HEX(e): 48 digits, upper case, leading zeros kept (R75). -/
def toHex (e : Elem) : List Char := hexLow e.toNat 48

/-- The value of a hex digit of either case (R76). -/
def hexValue (ch : Char) : Option Nat :=
  let v := ch.toNat
  if 48 ≤ v ∧ v ≤ 57 then some (v - 48)
  else if 65 ≤ v ∧ v ≤ 70 then some (v - 55)
  else if 97 ≤ v ∧ v ≤ 102 then some (v - 87)
  else none

/-- The number that digits spell after `acc`, the most significant first; none where one is no digit. -/
def spell (base : Nat) (digit : Char → Option Nat) (acc : Nat) : List Char → Option Nat
  | [] => some acc
  | ch :: rest =>
    match digit ch with
    | some d => spell base digit (base * acc + d) rest
    | none => none

/-- FROM_HEX(s), for 1 to 48 hex digits (R76); no other string has a value (row U15 of
spec/93_implementation_defined.md). -/
def fromHex (s : List Char) : Option Elem :=
  if 1 ≤ s.length ∧ s.length ≤ 48 then (spell 16 hexValue 0 s).map fromValue else none

/-- A string TO_HEX can produce (R76): 48 digits, no lower-case letter, the first digit below 8. -/
def isCanonicalHex (s : List Char) : Bool :=
  s.length == 48 && s.all (fun ch => (hexValue ch).isSome && decide (ch.toNat ≤ 70))
    && (match s with
        | [] => false
        | ch :: _ => decide (ch.toNat ≤ 55))

end Sys2Proof.Machine
end

