-- ==== Sys2Proof/Machine/Assembler.lean ====
section
/-! DEFINITION. The assembler notation of the spec's section 4 of spec/30_encoding.md (R60, R61): one line
of text to one command. It is notation outside the core; a line that is not of the form is rejected by
name. What R60 leaves open (how many blanks, and where) is a DESIGN CHOICE (log 10). -/

namespace Sys2Proof.Machine

/-- Why a line is no command. -/
inductive AsmError where
  /-- Nothing but blanks and a comment. -/
  | emptyLine
  /-- The first word is none of the eight mnemonics of R60. -/
  | unknownMnemonic
  /-- Not the number of operands R60 gives the mnemonic. -/
  | operandCount
  /-- Not an element literal of R61; more than 48 digits among them. -/
  | badElement
  /-- Not an exponent literal of R61. -/
  | badExponent
  /-- An exponent of 2^EXP_W or more (R61). -/
  | exponentTooWide
  deriving DecidableEq, Repr

/-- The line up to its comment, which runs from two hyphens to the end of the line (R60). -/
def stripComment : List Char → List Char
  | [] => []
  | ch :: rest =>
    if ch = '-' ∧ rest.head? = some '-' then [] else ch :: stripComment rest

/-- Without the blanks in front. -/
def trimFront (s : List Char) : List Char := s.dropWhile (· == ' ')

/-- Without the blanks at both ends. -/
def trimBoth (s : List Char) : List Char := (trimFront (trimFront s).reverse).reverse

/-- The pieces between commas. -/
def splitCommas : List Char → List (List Char)
  | [] => [[]]
  | ch :: rest =>
    if ch = ',' then [] :: splitCommas rest
    else
      match splitCommas rest with
      | [] => [[ch]]
      | piece :: more => (ch :: piece) :: more

/-- The value of a decimal digit. -/
def decimalValue (ch : Char) : Option Nat :=
  let v := ch.toNat
  if 48 ≤ v ∧ v ≤ 57 then some (v - 48) else none

/-- An element literal (R61): ZERO, ONE, or 0x and 1 to 48 hex digits of either case, through
FROM_VALUE. -/
def elemLiteral (s : List Char) : Option Elem :=
  if s = ['Z', 'E', 'R', 'O'] then some zeroElem
  else if s = ['O', 'N', 'E'] then some oneElem
  else
    match s with
    | '0' :: 'x' :: digits => fromHex digits
    | _ => none

/-- An exponent literal (R61): a decimal number, or 0x and hex digits. -/
def exponentLiteral (s : List Char) : Option Nat :=
  match s with
  | [] => none
  | '0' :: 'x' :: digits => if digits = [] then none else spell 16 hexValue 0 digits
  | _ => spell 10 decimalValue 0 s

/-- The eight mnemonics (R60). -/
def mnemonicCode (s : List Char) : Option OpCode :=
  if s = ['A', 'D', 'D'] then some 0#3
  else if s = ['M', 'U', 'L'] then some 1#3
  else if s = ['S', 'Q', 'R'] then some 2#3
  else if s = ['I', 'N', 'V'] then some 3#3
  else if s = ['P', 'O', 'W'] then some 4#3
  else if s = ['R', 'S', 'V', '5'] then some 5#3
  else if s = ['R', 'S', 'V', '6'] then some 6#3
  else if s = ['R', 'S', 'V', '7'] then some 7#3
  else none

/-- Two element operands. -/
def asmTwo (make : Elem → Elem → Nat → Instr) : List (List Char) → Except AsmError Instr
  | [x, y] =>
    match elemLiteral x, elemLiteral y with
    | some a, some b => .ok (make a b 0)
    | _, _ => .error .badElement
  | _ => .error .operandCount

/-- One element operand; fields not written are zero (R60). -/
def asmOne (make : Elem → Elem → Nat → Instr) : List (List Char) → Except AsmError Instr
  | [x] =>
    match elemLiteral x with
    | some a => .ok (make a zeroElem 0)
    | none => .error .badElement
  | _ => .error .operandCount

/-- An element and an exponent, which must fit the port (R61). -/
def asmPower (expW : Nat) : List (List Char) → Except AsmError Instr
  | [x, y] =>
    match elemLiteral x, exponentLiteral y with
    | some a, some n => if exponentFits expW n then .ok (.pow a zeroElem n) else .error .exponentTooWide
    | none, _ => .error .badElement
    | some _, none => .error .badExponent
  | _ => .error .operandCount

/-- No operand. -/
def asmNone (make : Elem → Elem → Nat → Instr) : List (List Char) → Except AsmError Instr
  | [] => .ok (make zeroElem zeroElem 0)
  | _ => .error .operandCount

/-- The command a line stands for, on a core with an exponent port of `expW` wires (R60, R61). -/
def assemble (expW : Nat) (line : List Char) : Except AsmError Instr :=
  let text := trimBoth (stripComment line)
  let word := text.takeWhile (· != ' ')
  let rest := trimFront (text.dropWhile (· != ' '))
  let operands := if rest = [] then [] else (splitCommas rest).map trimBoth
  if text = [] then .error .emptyLine
  else
    match mnemonicCode word with
    | none => .error .unknownMnemonic
    | some op =>
      if op = 0#3 then asmTwo .add operands
      else if op = 1#3 then asmTwo .mul operands
      else if op = 2#3 then asmOne .sqr operands
      else if op = 3#3 then asmOne .inv operands
      else if op = 4#3 then asmPower expW operands
      else if op = 5#3 then asmNone .rsv5 operands
      else if op = 6#3 then asmNone .rsv6 operands
      else asmNone .rsv7 operands

end Sys2Proof.Machine
end

