-- ==== Sys2Proof/Machine/Command.lean ====
section
/-! DEFINITION. EXEC, the Result of a whole command as a pure function of its four fields (R13, R56). -/

namespace Sys2Proof.Machine

/-- EXEC(op, a, b, n) (R56): total, and a function of its four arguments alone. -/
def commandResult (op : OpCode) (a b : Elem) (n : Nat) : Result :=
  if op = 0#3 then .ok (fieldAdd a b)
  else if op = 1#3 then .ok (fieldMul a b)
  else if op = 2#3 then .ok (fieldSqr a)
  else if op = 3#3 then fieldInv a
  else if op = 4#3 then .ok (fieldPow a n)
  else .err .illegalOp

end Sys2Proof.Machine
end

