-- ==== Sys2Proof/Machine/ClosedForm.lean ====
section
/-! DEFINITION. The helper functions of R12, on natural numbers read as bit vectors without a width bound,
and the n-fold product of R125. No meaning uses them: they are what the closed forms of the spec are
stated with. -/

namespace Sys2Proof.Machine

/-- The exclusive or of `p << i` over the set bits `i < k` of `q`. -/
def clmulLow (p q : Nat) : Nat → Nat
  | 0 => 0
  | k + 1 => if q.testBit k then clmulLow p q k ^^^ (p <<< k) else clmulLow p q k

/-- The carry-less product (R12). -/
def clmul (p q : Nat) : Nat := clmulLow p q (bitLength q)

/-- At most `k` steps of the remainder loop of R12. -/
def polymodLoop : Nat → Nat → Nat
  | 0, p => p
  | k + 1, p =>
    if p < 2 ^ 191 then p
    else polymodLoop k (p ^^^ (reductionPolynomial.toNat <<< (p.log2 - 191)))

/-- The remainder modulo R (R12): while the degree is 191 or more, exclusive or with R shifted under the
top bit. Each step lowers the degree, so as many steps as `p` has bits are enough. -/
def polymod (p : Nat) : Nat := polymodLoop (bitLength p) p

/-- The product of `n` copies of `a` under MUL, the empty product being ONE (R125). -/
def foldProduct (a : Elem) : Nat → Elem
  | 0 => oneElem
  | n + 1 => fieldMul (foldProduct a n) a

/-- The number of set bits among the lowest `k` bits of `n`. -/
def popCountLow (n : Nat) : Nat → Nat
  | 0 => 0
  | k + 1 => popCountLow n k + if n.testBit k then 1 else 0

/-- The table of R100: the square of the basis element x^i. -/
def squareOfBasis (i : Nat) : Elem :=
  if i ≤ 95 then BitVec.twoPow 191 (2 * i)
  else if i ≤ 186 then BitVec.twoPow 191 (2 * i - 182) ^^^ BitVec.twoPow 191 (2 * i - 191)
  else BitVec.twoPow 191 (2 * i - 191) ^^^ BitVec.twoPow 191 (2 * i - 364)
    ^^^ BitVec.twoPow 191 (2 * i - 373)

/-- The exclusive or of the table's rows over the set bits `i < k` of `a` (R100). -/
def squareByTable (a : Elem) : Nat → Elem
  | 0 => zeroElem
  | k + 1 => if a.getLsbD k then squareByTable a k ^^^ squareOfBasis k else squareByTable a k

end Sys2Proof.Machine
end

