-- ==== Sys2Proof/Machine/Flags.lean ====
section
/-! DEFINITION. The status of the core: the four outputs, the status word, and how a host reads a Result
off them. There is no carry, zero or overflow flag (R7, R32): BUSY, DONE and ERR are all there is, and
`State.respond` and `State.latch` (Ops.lean) are what writes them. -/

namespace Sys2Proof.Machine

/-- The output ports (R24). -/
structure Outputs where
  busy : Bool
  done : Bool
  err : ErrBits
  c : Elem
  deriving DecidableEq, Repr

/-- The outputs come straight from the registers (R25). -/
def State.outputs (s : State) : Outputs := ⟨s.busy, s.done, s.err, s.c⟩

/-- The status word: bits 3 and 2 ERR, bit 1 DONE, bit 0 BUSY (R32). -/
def State.status (s : State) : BitVec 4 :=
  s.err ++ (BitVec.ofBool s.done ++ BitVec.ofBool s.busy)

/-- The status words R32 lists as legal. -/
def legalStatus : List (BitVec 4) :=
  [0b0000#4, 0b0001#4, 0b0101#4, 0b1001#4, 0b0010#4, 0b0110#4, 0b1010#4]

/-- The Result that output values show (R158): none while `done` = 0, and none for the code 3, which no
core produces (row U5 of spec/93_implementation_defined.md). -/
def Outputs.response (o : Outputs) : Option Result :=
  if o.done then
    if o.err = 0#2 then some (.ok o.c)
    else if o.err = 1#2 then some (.err .divByZero)
    else if o.err = 2#2 then some (.err .illegalOp)
    else none
  else none

/-- The Result the host reads off the core (R158, R162). -/
def State.response (s : State) : Option Result := s.outputs.response

/-- The state at the end of a host script (R168): a response is there and nothing is in work. -/
def State.isFinal (s : State) : Bool := !s.busy && s.done

end Sys2Proof.Machine
end

