-- ==== Sys2Proof/Machine/HostScript.lean ====
section
/-! DEFINITION. The host side of the protocol: how a host hands one command to the core and waits for its
response, and the host scripts of R62. The text form of a line is in ScriptText.lean. -/

namespace Sys2Proof.Machine

/-- Edges until `p` holds of the state before the edge, at most `k` of them. -/
def waitUntil (t : Timing) (p : State → Bool) : Nat → State → Host.Outcome State Fault Refusal
  | 0, s => .next s
  | k + 1, s =>
    if p s then .next s
    else
      match edge t s with
      | .next s' => waitUntil t p k s'
      | .fault r => .fault r
      | .refused r => .refused r

/-- The core has no command in work. -/
def State.isIdle (s : State) : Bool := !s.busy

/-- The core shows a response. -/
def State.isDone (s : State) : Bool := s.done

/-- One command the way R62 says: wait until `busy` = 0, present the command with `start` = 1 for one edge,
wait until `done` = 1. The host drives idle inputs while it waits. Each wait is as long as the core's own
count of edges says it can take, so it never ends too early (R157). -/
def issue (t : Timing) (i : Instr) (s : State) : Host.Outcome State Fault Refusal :=
  match waitUntil t State.isIdle (s.edgesLeft + 1) { s with pins := [] } with
  | .fault r => .fault r
  | .refused r => .refused r
  | .next s₁ =>
    match edge t { s₁ with pins := [presentPins i] } with
    | .fault r => .fault r
    | .refused r => .refused r
    | .next s₂ => waitUntil t State.isDone (s₂.edgesLeft + 1) s₂

/-- A name in a script. -/
abbrev ScriptName := List Char

/-- An operand of a script line: a literal, or the name of an earlier line's result (R62). -/
inductive ScriptOperand where
  | literal (e : Elem)
  | named (x : ScriptName)
  deriving DecidableEq, Repr

/-- The command of a script line, by its mnemonic (R60, R62). DESIGN CHOICE (log 11): the exponent of a POW is a
literal number only, though R62 says of operands in general that they may be names; a name stands for an
element, and the spec says of no element how it would be read as an exponent. -/
inductive ScriptCommand where
  | add (x y : ScriptOperand)
  | mul (x y : ScriptOperand)
  | sqr (x : ScriptOperand)
  | inv (x : ScriptOperand)
  | pow (x : ScriptOperand) (n : Nat)
  | rsv5
  | rsv6
  | rsv7
  deriving DecidableEq, Repr

/-- A line of a script (R62). -/
inductive ScriptLine where
  /-- `x = <command>`; `goesOn` where the script says that an error does not end it. -/
  | bind (x : ScriptName) (cmd : ScriptCommand) (goesOn : Bool)
  /-- The same line, skipped unless `tested` is bound to an error: the branch on `err` of program P3. -/
  | bindIfErr (tested x : ScriptName) (cmd : ScriptCommand) (goesOn : Bool)
  /-- `assert x == y`, an equality test on the host (R77). -/
  | assertEq (x y : ScriptOperand)
  deriving DecidableEq, Repr

/-- What the names are bound to. -/
abbrev ScriptEnv := List (ScriptName × Result)

/-- How a script ends. -/
inductive ScriptEnd where
  /-- After its last line. -/
  | finished (env : ScriptEnv) (s : State)
  /-- At a line whose command answered an error (R62). -/
  | endedByError (x : ScriptName) (env : ScriptEnv) (s : State)
  /-- At an assertion that does not hold. DESIGN CHOICE (log 11): R62 says that an assertion is an equality
  test on the host, not what a failed one does to the script. -/
  | assertFailed (env : ScriptEnv) (s : State)
  /-- At an operand that is no earlier line's element. -/
  | noElement (env : ScriptEnv) (s : State)
  /-- At a command the core did not answer: its exponent does not fit the port. -/
  | notAnswered (env : ScriptEnv) (s : State)
  deriving DecidableEq, Repr

/-- The element an operand stands for. -/
def ScriptOperand.value (env : ScriptEnv) : ScriptOperand → Option Elem
  | .literal e => some e
  | .named x =>
    match env.lookup x with
    | some (.ok c) => some c
    | _ => none

/-- The command a script line sends; fields not written are zero (R60). -/
def ScriptCommand.instr (env : ScriptEnv) : ScriptCommand → Option Instr
  | .add x y => match x.value env, y.value env with
    | some a, some b => some (.add a b 0)
    | _, _ => none
  | .mul x y => match x.value env, y.value env with
    | some a, some b => some (.mul a b 0)
    | _, _ => none
  | .sqr x => (x.value env).map fun a => .sqr a zeroElem 0
  | .inv x => (x.value env).map fun a => .inv a zeroElem 0
  | .pow x n => (x.value env).map fun a => .pow a zeroElem n
  | .rsv5 => some (.rsv5 zeroElem zeroElem 0)
  | .rsv6 => some (.rsv6 zeroElem zeroElem 0)
  | .rsv7 => some (.rsv7 zeroElem zeroElem 0)

/-- A script from a state and an environment (R62); `again` lines follow the one in hand. DESIGN CHOICE
(log 11), where R62 is silent: a failed assertion ends the script, and so does an operand that is no
element or a command the core does not answer; of two results with one name the later counts. -/
def runScript (t : Timing) : List ScriptLine → ScriptEnv → State → ScriptEnd
  | [], env, s => .finished env s
  | .assertEq x y :: again, env, s =>
    match x.value env, y.value env with
    | some u, some v => if u = v then runScript t again env s else .assertFailed env s
    | _, _ => .noElement env s
  | .bind x cmd goesOn :: again, env, s =>
    match cmd.instr env with
    | none => .noElement env s
    | some i =>
      match issue t i s with
      | .next s' =>
        match s'.response with
        | some (.ok c) => runScript t again ((x, .ok c) :: env) s'
        | some (.err code) =>
          if goesOn then runScript t again ((x, .err code) :: env) s'
          else .endedByError x ((x, .err code) :: env) s'
        | none => .notAnswered env s'
      | .fault _ => .notAnswered env s
      | .refused _ => .notAnswered env s
  | .bindIfErr tested x cmd goesOn :: again, env, s =>
    match env.lookup tested with
    | some (.err _) =>
      match cmd.instr env with
      | none => .noElement env s
      | some i =>
        match issue t i s with
        | .next s' =>
          match s'.response with
          | some (.ok c) => runScript t again ((x, .ok c) :: env) s'
          | some (.err code) =>
            if goesOn then runScript t again ((x, .err code) :: env) s'
            else .endedByError x ((x, .err code) :: env) s'
          | none => .notAnswered env s'
        | .fault _ => .notAnswered env s
        | .refused _ => .notAnswered env s
    | _ => runScript t again env s

end Sys2Proof.Machine
end

