-- ==== Sys2Proof/Machine/ScriptText.lean ====
section
/-! DEFINITION. The text of a host script line (R62): `name = <command>` with operands that are literals or
names, and `assert name1 == name2`. That an error does not end the script, and the branch on an error,
are said in plain words in the spec's scripts and have no text form to read (log 11). -/

namespace Sys2Proof.Machine

/-- A letter of either case. -/
def isLetter (ch : Char) : Bool :=
  decide (65 ≤ ch.toNat ∧ ch.toNat ≤ 90) || decide (97 ≤ ch.toNat ∧ ch.toNat ≤ 122)

/-- A name: a letter, then letters and digits. -/
def isScriptName : List Char → Bool
  | [] => false
  | ch :: rest => isLetter ch && rest.all (fun x => isLetter x || (decimalValue x).isSome)

/-- An operand: a literal of R61 or a name. -/
def readOperand (s : List Char) : Option ScriptOperand :=
  match elemLiteral s with
  | some e => some (.literal e)
  | none => if isScriptName s then some (.named s) else none

/-- The two sides of the first `=` of a line. -/
def splitEquals : List Char → Option (List Char × List Char)
  | [] => none
  | ch :: rest =>
    if ch = '=' then some ([], rest)
    else
      match splitEquals rest with
      | some (left, right) => some (ch :: left, right)
      | none => none

/-- The command of a script line, by its mnemonic and its operands (R60, R62). DESIGN CHOICE (log 11): the
exponent of a POW is read as a literal of R61 only, never as a name. -/
def readCommand (expW : Nat) (op : OpCode) (operands : List (List Char)) :
    Except AsmError ScriptCommand :=
  if op = 0#3 ∨ op = 1#3 then
    match operands with
    | [x, y] =>
      match readOperand x, readOperand y with
      | some u, some v => .ok (if op = 0#3 then .add u v else .mul u v)
      | _, _ => .error .badElement
    | _ => .error .operandCount
  else if op = 2#3 ∨ op = 3#3 then
    match operands with
    | [x] =>
      match readOperand x with
      | some u => .ok (if op = 2#3 then .sqr u else .inv u)
      | none => .error .badElement
    | _ => .error .operandCount
  else if op = 4#3 then
    match operands with
    | [x, y] =>
      match readOperand x, exponentLiteral y with
      | some u, some n => if exponentFits expW n then .ok (.pow u n) else .error .exponentTooWide
      | none, _ => .error .badElement
      | some _, none => .error .badExponent
    | _ => .error .operandCount
  else
    match operands with
    | [] => .ok (if op = 5#3 then .rsv5 else if op = 6#3 then .rsv6 else .rsv7)
    | _ => .error .operandCount

/-- The line a text stands for (R62). -/
def readScriptLine (expW : Nat) (line : List Char) : Except AsmError ScriptLine :=
  let text := trimBoth (stripComment line)
  if text = [] then .error .emptyLine
  else if text.take 7 = ['a', 's', 's', 'e', 'r', 't', ' '] then
    match splitEquals (text.drop 7) with
    | some (left, '=' :: right) =>
      match readOperand (trimBoth left), readOperand (trimBoth right) with
      | some u, some v => .ok (.assertEq u v)
      | _, _ => .error .badElement
    | _ => .error .operandCount
  else
    match splitEquals text with
    | none => .error .unknownMnemonic
    | some (left, right) =>
      let x := trimBoth left
      let body := trimBoth right
      let rest := trimFront (body.dropWhile (· != ' '))
      let operands := if rest = [] then [] else (splitCommas rest).map trimBoth
      match mnemonicCode (body.takeWhile (· != ' ')) with
      | none => .error .unknownMnemonic
      | some op =>
        if isScriptName x then
          match readCommand expW op operands with
          | .ok cmd => .ok (.bind x cmd false)
          | .error e => .error e
        else .error .badElement

end Sys2Proof.Machine
end

