-- ==== Sys2Proof/Safety.lean ====
section
/-! DEFINITION. What the claims about the machine speak of: the state a core can be in, the response it
owes, a unit that is on its way. A core has no bad way to run, since it never traps or stops (R130); a safe
run is one whose states are legal and whose responses are the Results of the commands in the latches. -/

namespace Sys2Proof.Machine

/-- The legal states: the port is at least one wire wide (R6); OPN and PN fit their EXP_W bits (R31, R38);
BUSY and DONE are never both 1 (R28); the code 3 is never in ERR (R131); an error's C is 0 (R30); a core
that is neither working nor done has just been reset (R28, R29, R39); and a working core, and no other,
has edges left (R157). -/
abbrev State.legal (s : State) : Prop :=
  1 ≤ s.expW ∧ s.opn < 2 ^ s.expW ∧ s.powRegs.pn < 2 ^ s.expW
  ∧ ¬ (s.busy = true ∧ s.done = true)
  ∧ s.err ≠ 3#2
  ∧ (s.err ≠ 0#2 → s.c = zeroElem)
  ∧ (s.busy = false → s.done = false → s.err = 0#2 ∧ s.c = zeroElem)
  ∧ (s.busy = true ↔ 1 ≤ s.edgesLeft)

/-- The Result of the command in the latches (R56). -/
def State.owedResult (s : State) : Result := commandResult s.opc s.opa s.opb s.opn

/-- The registers show this Result the way R157 writes it and R158 reads it. -/
abbrev State.shows (s : State) (res : Result) : Prop :=
  s.busy = false ∧ s.done = true ∧ s.err = res.errBits ∧ s.c = res.data

/-- What a core shows as done is the Result of the command in its latches (R28, R157). -/
abbrev State.answered (s : State) : Prop := s.done = true → s.response = some s.owedResult

/-- The working registers of the unit in work are some number of steps from their start values, on the
operands in the latches (R34, R86, R96, R107, R121). -/
def State.tracked (s : State) : Prop :=
  s.busy = true →
    (s.opc = 1#3 → ∃ k, s.mulRegs = repeatStep (mulStep s.opb) k (mulStart s.opa))
    ∧ (s.opc = 2#3 → ∃ k, s.sqrRegs = repeatStep sqrStep k (sqrStart s.opa))
    ∧ (s.opc = 3#3 → s.opa ≠ zeroElem → ∃ k, s.invRegs = repeatStep invStep k (invStart s.opa))
    ∧ (s.opc = 4#3 → ∃ k, s.powRegs = repeatStep powStep k (powStart s.opa s.opn))

/-- The latches hold the same command. -/
abbrev State.sameLatches (s s' : State) : Prop :=
  s'.opc = s.opc ∧ s'.opa = s.opa ∧ s'.opb = s.opb ∧ s'.opn = s.opn

/-- The four visible registers hold the same (R159). -/
abbrev State.sameVisible (s s' : State) : Prop :=
  s'.busy = s.busy ∧ s'.done = s.done ∧ s'.err = s.err ∧ s'.c = s.c

end Sys2Proof.Machine
end

