-- ==== Sys2Proof/Certificates/Slice0/Obligations.lean ====
section
/-! DEFINITION. The statements about the core, for the provers. A statement over a `Timing` holds for every
LAT and every pace of the units (R6, R167). -/

open Sys2Proof Sys2Proof.Machine

/-! ### Encoding -/

/-- Every command that fits the ports is what its word decodes to, every field at every value. -/
def Obligations.DecodeOfEncode : Prop :=
  ∀ (expW : Nat) (i : Instr), i.wellFormed expW = true → decode expW (encode i) = .ok i

/-- A word that decodes is the word of the command it decodes to, which fits the ports; the words that do
not decode are those longer than 385 + EXP_W bits. -/
def Obligations.EncodeOfDecode : Prop :=
  ∀ expW w : Nat,
    (∀ i : Instr, decode expW w = .ok i → encode i = w ∧ i.wellFormed expW = true)
    ∧ (decode expW w = .error .wordTooWide ↔ 2 ^ (385 + expW) ≤ w)

/-- R50: where the fields of CMD lie, and how wide it is. -/
def Obligations.CommandWordLayout : Prop :=
  ∀ (expW : Nat) (i : Instr), i.wellFormed expW = true →
    encode i < 2 ^ (385 + expW)
    ∧ encode i % 2 ^ 3 = i.opCode.toNat
    ∧ encode i / 2 ^ 3 % 2 ^ 191 = i.fieldA.toNat
    ∧ encode i / 2 ^ 194 % 2 ^ 191 = i.fieldB.toNat
    ∧ encode i / 2 ^ 385 % 2 ^ expW = i.fieldN

/-- R52: the eight operation codes, each for every value of the fields. -/
def Obligations.OperationCodes : Prop :=
  ∀ (a b : Elem) (n : Nat),
    decodeFields 0#3 a b n = .add a b n ∧ decodeFields 1#3 a b n = .mul a b n
    ∧ decodeFields 2#3 a b n = .sqr a b n ∧ decodeFields 3#3 a b n = .inv a b n
    ∧ decodeFields 4#3 a b n = .pow a b n ∧ decodeFields 5#3 a b n = .rsv5 a b n
    ∧ decodeFields 6#3 a b n = .rsv6 a b n ∧ decodeFields 7#3 a b n = .rsv7 a b n

/-- Words the spec writes out (section 1.1 and X3 of spec/95_test_vectors.md) decode to the commands it
says they are. -/
def Obligations.WordsOfTheSpecDecode : Prop :=
  decode 192 0x8000000000000000000000000000000000000000000000009 = .ok (.mul 1 2 0)
  ∧ decode 192 0xA = .ok (.sqr 1 0 0)
  ∧ decode 192 0 = .ok (.add 0 0 0)
  ∧ decode 192 0x607200000000000000000000000000000000000000000000000000000000000000000000000000000000000000000000000C
      = .ok (.pow 1 0 12345)
  ∧ decode 192 3 = .ok (.inv 0 0 0)
  ∧ decode 192 (2 ^ 577 - 1) = .ok (.rsv7 (BitVec.allOnes 191) (BitVec.allOnes 191) (2 ^ 192 - 1))

/-! ### What each command does at its completing edge -/

/-- ADD, whole: its encoding, its effect with the frame, and its corner cases and example. That `edgesLeft`
becomes 0 is the model's choice (log 15); the rest is the spec's (spec/41_add.md). -/
def Obligations.AddCompletes : Prop :=
  (∀ (a b : Elem) (n : Nat) (s : State),
    (Instr.add a b n).opCode = 0#3
    ∧ exec (.add a b n) s
        = .next { s with c := a ^^^ b, err := 0#2, done := true, busy := false, edgesLeft := 0 }
    ∧ ∀ i, i < 191 → (fieldAdd a b).getLsbD i = (a.getLsbD i ^^ b.getLsbD i))
  ∧ (∀ a : Elem, fieldAdd a zeroElem = a ∧ fieldAdd a a = zeroElem
      ∧ (fieldAdd a (BitVec.allOnes 191)).toNat = (2 ^ 191 - 1) - a.toNat)
  ∧ fieldAdd 0x5 0x3 = 0x6

/-- MUL answers the product and ERR = 0; besides the response only the multiplier's registers may change.
That the other units' registers stay, and the field `edgesLeft`, are the model's choices (log 3, log 15). -/
def Obligations.MulCompletes : Prop :=
  ∀ (a b : Elem) (n : Nat) (s : State), ∃ u : MulRegs,
    exec (.mul a b n) s
      = .next { s with c := fieldMul a b, err := 0#2, done := true, busy := false, edgesLeft := 0,
                       mulRegs := u }

/-- SQR answers the square and ERR = 0; besides the response only the squarer's registers may change.
That the other units' registers stay, and the field `edgesLeft`, are the model's choices (log 3, log 15). -/
def Obligations.SqrCompletes : Prop :=
  ∀ (a b : Elem) (n : Nat) (s : State), ∃ u : SqrRegs,
    exec (.sqr a b n) s
      = .next { s with c := fieldSqr a, err := 0#2, done := true, busy := false, edgesLeft := 0,
                       sqrRegs := u }

/-- POW answers the power and ERR = 0; besides the response only the engine's registers may change.
That the multiplier's and the squarer's registers stay is the model's choice (log 8), and so are the
other units' and the field `edgesLeft` (log 3, log 15). -/
def Obligations.PowCompletes : Prop :=
  ∀ (a b : Elem) (n : Nat) (s : State), ∃ u : PowRegs,
    exec (.pow a b n) s
      = .next { s with c := fieldPow a n, err := 0#2, done := true, busy := false, edgesLeft := 0,
                       powRegs := u }

/-- INV of a nonzero element answers an element and ERR = 0; besides the response only the inverter's
registers may change. That the other units' registers stay, and the field `edgesLeft`, are the model's
choices (log 3, log 15). -/
def Obligations.InvOfNonzeroCompletes : Prop :=
  ∀ (a b : Elem) (n : Nat) (s : State), a ≠ zeroElem → ∃ (v : Elem) (u : InvRegs),
    fieldInv a = .ok v
    ∧ exec (.inv a b n) s
        = .next { s with c := v, err := 0#2, done := true, busy := false, edgesLeft := 0, invRegs := u }

/-- INV of zero answers DIV_BY_ZERO with C = 0, and changes nothing besides the response but `edgesLeft`,
the model's own field: that it becomes 0 is the model's choice (log 15). -/
def Obligations.InvOfZeroAnswersDivByZero : Prop :=
  ∀ (b : Elem) (n : Nat) (s : State),
    exec (.inv zeroElem b n) s
      = .next { s with c := zeroElem, err := 1#2, done := true, busy := false, edgesLeft := 0 }

/-- The three reserved codes answer ILLEGAL_OP with C = 0 for every operand, and change nothing besides the
response but `edgesLeft`, the model's own field: that it becomes 0 is the model's choice (log 15). -/
def Obligations.ReservedCodesAnswerIllegalOp : Prop :=
  ∀ (a b : Elem) (n : Nat) (s : State),
    let answer : Host.Outcome State Fault Refusal :=
      .next { s with c := zeroElem, err := 2#2, done := true, busy := false, edgesLeft := 0 }
    exec (.rsv5 a b n) s = answer ∧ exec (.rsv6 a b n) s = answer ∧ exec (.rsv7 a b n) s = answer

/-- R131, R132, R133: the error codes are all there are, and who raises each. Every command answers. -/
def Obligations.ErrorCodesAndTheirCauses : Prop :=
  ∀ (i : Instr) (s : State), ∃ t, exec i s = .next t
    ∧ t.done = true ∧ t.busy = false
    ∧ t.err ≠ 3#2
    ∧ (t.err = 1#2 ↔ i.opCode = 3#3 ∧ i.fieldA = zeroElem)
    ∧ (t.err = 2#2 ↔ i.opCode = 5#3 ∨ i.opCode = 6#3 ∨ i.opCode = 7#3)
    ∧ (t.err ≠ 0#2 → t.c = zeroElem)

/-- R56: the Result of a command, and that each command's meaning shows exactly it. -/
def Obligations.ExecShowsTheCommandFunction : Prop :=
  (∀ (a b : Elem) (n : Nat),
    commandResult 0#3 a b n = .ok (fieldAdd a b) ∧ commandResult 1#3 a b n = .ok (fieldMul a b)
    ∧ commandResult 2#3 a b n = .ok (fieldSqr a) ∧ commandResult 3#3 a b n = fieldInv a
    ∧ commandResult 4#3 a b n = .ok (fieldPow a n)
    ∧ ∀ op : OpCode, 5 ≤ op.toNat → commandResult op a b n = .err .illegalOp)
  ∧ ∀ (i : Instr) (s : State), ∃ t, exec i s = .next t
      ∧ t.shows (commandResult i.opCode i.fieldA i.fieldB i.fieldN)
      ∧ t.response = some (commandResult i.opCode i.fieldA i.fieldB i.fieldN)
      ∧ State.sameLatches s t ∧ t.expW = s.expW ∧ t.pins = s.pins ∧ t.resets = s.resets

/-- A field a command does not read has no effect on its Result (R53's table is `readsField`). -/
def Obligations.UnreadFieldsDoNotMatter : Prop :=
  ∀ (op : OpCode) (a b a' b' : Elem) (n n' : Nat),
    (readsField op .a = true → a = a') → (readsField op .b = true → b = b') →
    (readsField op .n = true → n = n') →
    commandResult op a b n = commandResult op a' b' n'

/-- What a command answers does not depend on the state it meets, an error before it among them. -/
def Obligations.AnswersDoNotDependOnTheState : Prop :=
  ∀ (i : Instr) (s₁ s₂ : State), ∃ t₁ t₂,
    exec i s₁ = .next t₁ ∧ exec i s₂ = .next t₂ ∧ t₁.outputs = t₂.outputs

/-! ### The edge function and the protocol -/

/-- R150: a reset edge, whatever the state and the other inputs. -/
def Obligations.ResetEdgeWins : Prop :=
  ∀ (t : Timing) (s : State), s.nextPins.rst = true →
    ∃ s', edge t s = .next s' ∧ s'.busy = false ∧ s'.done = false ∧ s'.err = 0#2 ∧ s'.c = zeroElem

/-- The state the machine starts from is idle and empty, as a reset leaves it. -/
def Obligations.ResetStateIsIdle : Prop :=
  State.reset.busy = false ∧ State.reset.done = false ∧ State.reset.err = 0#2
  ∧ State.reset.c = zeroElem ∧ State.reset.status = 0b0000#4 ∧ State.reset.response = none

/-- An accepting edge. The latches take the four inputs, BUSY rises, DONE falls, C and ERR stay, and the
completing edge is LAT edges away. That the working registers of the unit take their start values at this
very edge is the model's choice (log 9): the spec says "at or after this edge, before their first step".
That `edgesLeft` holds LAT (log 15) and that the other units' registers stay (log 3) are its choices too. -/
def Obligations.AcceptingEdge : Prop :=
  ∀ (t : Timing) (s : State) (p : Pins) (later : List Pins),
    s.pins = p :: later → p.rst = false → s.busy = false → p.start = true → p.n < 2 ^ s.expW →
    ∃ s', edge t s = .next s'
      ∧ s'.opc = p.op ∧ s'.opa = p.a ∧ s'.opb = p.b ∧ s'.opn = p.n
      ∧ s'.busy = true ∧ s'.done = false ∧ s'.c = s.c ∧ s'.err = s.err
      ∧ s'.edgesLeft = t.lat p.op p.a p.b p.n ∧ 1 ≤ s'.edgesLeft
      ∧ (s'.mulRegs = if p.op = 1#3 then mulStart p.a else s.mulRegs)
      ∧ (s'.sqrRegs = if p.op = 2#3 then sqrStart p.a else s.sqrRegs)
      ∧ (s'.invRegs = if p.op = 3#3 ∧ p.a ≠ zeroElem then invStart p.a else s.invRegs)
      ∧ (s'.powRegs = if p.op = 4#3 then powStart p.a p.n else s.powRegs)
      ∧ s'.expW = s.expW ∧ s'.pins = later ∧ s'.resets = s.resets

/-- While BUSY = 1 nothing but `rst` is looked at: two sets of inputs with the same `rst` give the same
next state. -/
def Obligations.BusyCoreIgnoresItsInputs : Prop :=
  ∀ (t : Timing) (s : State) (p q : Pins) (later : List Pins),
    s.busy = true → p.rst = q.rst →
    edge t { s with pins := p :: later } = edge t { s with pins := q :: later }

/-- A step runs the command in the latches: at the completing edge the step is exec of the command the
four latches decode to, once this edge's inputs are behind it. That exec is the completing edge's effect
(log 14), and that the completing edge is the one with at most one edge left, a working state with none
left included (log 15), are the model's choices. -/
def Obligations.StepRunsTheLatchedCommand : Prop :=
  ∀ s : State, s.nextPins.rst = false → s.busy = true → s.edgesLeft ≤ 1 →
    step s = exec (decodeFields s.opc s.opa s.opb s.opn) s.advancePins
    ∧ ∀ t : Timing, edge t s = step s

/-- A command word put in place is the command the very next step runs, on a core with the EXP_W of the
spec's examples. How a word is put in place is the model's choice (log 1, log 13). -/
def Obligations.FetchedWordRuns : Prop :=
  ∀ (nbits w : Nat) (i : Instr) (s : State), s.expW = 192 → decodeTableWord nbits w = some i →
    step (s.withFetchWord nbits w) = exec i (s.withFetchWord nbits w).advancePins

/-- An edge that is neither reset, nor accepting, nor completing changes no visible register and no latch; an
idle core keeps everything; a working one keeps EXP_W, and the registers of the units OPC does not select.
The count of edges left (log 15), and that an idle core and an unselected unit keep their hidden registers
(log 3), are the model's choices. -/
def Obligations.OtherEdgesChangeNothingVisible : Prop :=
  ∀ (t : Timing) (s : State), s.nextPins.rst = false →
    (s.busy = false → s.nextPins.start = false → edge t s = .next s.advancePins)
    ∧ (s.busy = true → 2 ≤ s.edgesLeft →
        ∃ s', edge t s = .next s' ∧ State.sameVisible s s' ∧ State.sameLatches s s'
          ∧ s'.edgesLeft + 1 = s.edgesLeft
          ∧ s'.expW = s.expW ∧ s'.pins = s.pins.tail ∧ s'.resets = s.resets
          ∧ (s.opc ≠ 1#3 → s'.mulRegs = s.mulRegs) ∧ (s.opc ≠ 2#3 → s'.sqrRegs = s.sqrRegs)
          ∧ (s.opc ≠ 3#3 → s'.invRegs = s.invRegs) ∧ (s.opc ≠ 4#3 → s'.powRegs = s.powRegs))

/-- The core never traps and never stops: an edge gives a next state whenever the exponent on the port
fits it, and the one thing it refuses is to accept an exponent that does not fit. The refusal is deduced
from row U13 of spec/93_implementation_defined.md (log 12). -/
def Obligations.EveryEdgeGivesANextState : Prop :=
  ∀ (t : Timing) (s : State),
    (s.nextPins.n < 2 ^ s.expW → ∃ s', edge t s = .next s')
    ∧ (∀ r, edge t s = .refused r →
        r = .exponentTooWide ∧ s.nextPins.rst = false ∧ s.nextPins.start = true ∧ s.busy = false
        ∧ 2 ^ s.expW ≤ s.nextPins.n)

/-- BUSY rises only by the host's `start` at an edge without reset: the core never acts on its own. -/
def Obligations.BusyRisesOnlyByStart : Prop :=
  ∀ (t : Timing) (s s' : State), edge t s = .next s' → s.busy = false → s'.busy = true →
    s.nextPins.start = true ∧ s.nextPins.rst = false

/-- A core whose host asserts neither `start` nor `rst` for `k` edges stays as it is. That its hidden
registers stay too is the model's choice (log 3). -/
def Obligations.IdleCoreStaysIdle : Prop :=
  ∀ (t : Timing) (k : Nat) (s : State), s.busy = false →
    (∀ p ∈ s.pins.take k, p.rst = false ∧ p.start = false) →
    edges t k s = .next { s with pins := s.pins.drop k }

/-- A command cut off by a reset never answers: with no new command for `k` edges nothing of it shows. -/
def Obligations.CommandCutOffByResetNeverAnswers : Prop :=
  ∀ (t : Timing) (k : Nat) (s : State) (p : Pins) (later : List Pins),
    s.busy = true → s.pins = p :: later → p.rst = true →
    (∀ q ∈ later.take k, q.rst = false ∧ q.start = false) →
    ∃ s', edges t (k + 1) s = .next s'
      ∧ s'.busy = false ∧ s'.done = false ∧ s'.err = 0#2 ∧ s'.c = zeroElem

/-- No hang: a core in work shows the Result of the command in its latches after the edges it has left,
unless a reset comes first; the latches are not changed. The count of edges left is the model's own
(log 15). -/
def Obligations.WorkingCoreAnswers : Prop :=
  ∀ (t : Timing) (s : State), s.busy = true → 1 ≤ s.edgesLeft →
    (∀ q ∈ s.pins.take s.edgesLeft, q.rst = false) →
    ∃ s', edges t s.edgesLeft s = .next s' ∧ s'.shows s.owedResult ∧ State.sameLatches s s'

/-- R157: the completing edge is the LAT-th after the accepting edge; until then BUSY is 1 and C and ERR
stay; at it C, ERR, BUSY and DONE take the Result of the values presented at the accepting edge, and the
latches keep those values. -/
def Obligations.CommandAnswersAfterLatEdges : Prop :=
  ∀ (t : Timing) (s : State) (p : Pins) (later : List Pins),
    s.pins = p :: later → p.rst = false → s.busy = false → p.start = true → p.n < 2 ^ s.expW →
    (∀ q ∈ later.take (t.lat p.op p.a p.b p.n), q.rst = false) →
    1 ≤ t.lat p.op p.a p.b p.n
    ∧ (∀ j, 1 ≤ j → j ≤ t.lat p.op p.a p.b p.n →
        ∃ s', edges t j s = .next s' ∧ s'.busy = true ∧ s'.done = false
          ∧ s'.c = s.c ∧ s'.err = s.err)
    ∧ ∃ s', edges t (t.lat p.op p.a p.b p.n + 1) s = .next s'
        ∧ s'.shows (commandResult p.op p.a p.b p.n)
        ∧ s'.opc = p.op ∧ s'.opa = p.a ∧ s'.opb = p.b ∧ s'.opn = p.n

/-- A host that issues a command the way R62 says, from any legal state, gets the Result of that command,
and leaves the core in a legal state. How the host waits is the model's choice (log 11). -/
def Obligations.IssuedCommandIsAnswered : Prop :=
  ∀ (t : Timing) (i : Instr) (s : State), s.legal → i.wellFormed s.expW = true →
    ∃ s', issue t i s = .next s' ∧ s'.legal ∧ s'.isFinal = true
      ∧ s'.response = some (commandResult i.opCode i.fieldA i.fieldB i.fieldN)

/-! ### Invariants -/

/-- The reset state meets the three invariants. What the latches hold there is the model's choice (log 6);
the invariants ask of it only that it fits its width. -/
def Obligations.InvariantsHoldAtReset : Prop :=
  State.reset.legal ∧ State.reset.answered ∧ State.reset.tracked

/-- Every step keeps the legal states, from every one of them. Its clause on the edges left is about the
model's own field (log 15). -/
def Obligations.StepKeepsLegal : Prop :=
  ∀ s s' : State, s.legal → step s = .next s' → s'.legal

/-- Every step keeps that a response shown is the Result of the command in the latches. -/
def Obligations.StepKeepsAnswered : Prop :=
  ∀ s s' : State, s.answered → step s = .next s' → s'.answered

/-- Every step keeps that the unit in work is on its way from its start values. That a unit starts at
the accepting edge and keeps its registers are the model's choices (log 3, log 9). -/
def Obligations.StepKeepsTracked : Prop :=
  ∀ s s' : State, s.tracked → step s = .next s' → s'.tracked

/-- The status word of a legal state is one of the seven, with BUSY, DONE and ERR at their places. -/
def Obligations.StatusIsOneOfSeven : Prop :=
  ∀ s : State, s.legal →
    s.status ∈ legalStatus
    ∧ s.status.getLsbD 0 = s.busy ∧ s.status.getLsbD 1 = s.done
    ∧ s.status.extractLsb' 2 2 = s.err

/-- The multiplier in work, from wherever it is, ends with the product of the latches in MACC.
That the registers are on their way is the model's choice (log 3). -/
def Obligations.MultiplierEndsWithTheProduct : Prop :=
  ∀ s : State, s.tracked → s.busy = true → s.opc = 1#3 →
    (repeatStep (mulStep s.opb) 191 s.mulRegs).macc = fieldMul s.opa s.opb
    ∧ (s.mulRegs.mi = 191#8 → s.mulRegs.macc = fieldMul s.opa s.opb)

/-- The squarer in work, from wherever it is, ends with the square of the latch in SW.
That the registers are on their way is the model's choice (log 3). -/
def Obligations.SquarerEndsWithTheSquare : Prop :=
  ∀ s : State, s.tracked → s.busy = true → s.opc = 2#3 →
    (repeatStep sqrStep 192 s.sqrRegs).sw.setWidth 191 = fieldSqr s.opa
    ∧ (s.sqrRegs.si = 190#9 → s.sqrRegs.sw.setWidth 191 = fieldSqr s.opa)

/-- The engine in work, from wherever it is, ends with the power of the latches in PR.
That the registers are on their way is the model's choice (log 3). -/
def Obligations.EngineEndsWithThePower : Prop :=
  ∀ s : State, s.tracked → s.busy = true → s.opc = 4#3 →
    (repeatStep powStep (bitLength s.opn) s.powRegs).pr = fieldPow s.opa s.opn
    ∧ (s.powRegs.pn = 0 → s.powRegs.pr = fieldPow s.opa s.opn)

/-- The inverter in work on a nonzero operand, from wherever it is, ends with EA = 1 and with the Result
of INV in EU.
That the registers are on their way is the model's choice (log 3); the bound of 760 is the spec's own inference (log 7). -/
def Obligations.InverterEndsWithTheInverse : Prop :=
  ∀ s : State, s.tracked → s.busy = true → s.opc = 3#3 → s.opa ≠ zeroElem →
    (repeatStep invStep 760 s.invRegs).ea = 1#192
    ∧ fieldInv s.opa = .ok (repeatStep invStep 760 s.invRegs).eu
    ∧ (s.invRegs.ea = 1#192 → fieldInv s.opa = .ok s.invRegs.eu)

/-! ### The field operations -/

/-- R81: the laws of ADD. -/
def Obligations.AddLaws : Prop :=
  ∀ a b c : Elem,
    fieldAdd a b = fieldAdd b a ∧ fieldAdd (fieldAdd a b) c = fieldAdd a (fieldAdd b c)
    ∧ fieldAdd a zeroElem = a ∧ fieldAdd a a = zeroElem

/-- A multiplication by x, bit by bit: the shift, and one fold into bits 9 and 0 where bit 190 was set. The
spec marks it as its own inference: "clears bit 191, inverts bit 9 and bit 0" (spec/42_multiply.md). -/
def Obligations.TimesXBitByBit : Prop :=
  ∀ (e : Elem) (i : Nat), i < 191 →
    (timesX e).getLsbD i
      = ((decide (1 ≤ i) && e.getLsbD (i - 1)) ^^ ((i == 0 || i == 9) && e.getLsbD 190))

/-- The invariant of the multiplier's loop: before step `i`, MA is a·x^i reduced and MACC is the reduced
product with the low `i` bits of b. The spec marks it as its own inference ("Invariants of the loop",
spec/42_multiply.md). -/
def Obligations.MultiplierLoopInvariant : Prop :=
  ∀ (a b : Elem) (i : Nat), i ≤ 191 →
    let u := repeatStep (mulStep b) i (mulStart a)
    u.mi.toNat = i ∧ u.ma.toNat = polymod (a.toNat <<< i)
    ∧ u.macc.toNat = polymod (clmulLow a.toNat b.toNat i)

/-- MUL is the remainder modulo R of the carry-less product. The spec marks the closed form as its own
inference ("Closed form", spec/42_multiply.md). -/
def Obligations.MulIsTheReducedProduct : Prop :=
  ∀ a b : Elem, (fieldMul a b).toNat = polymod (clmul a.toNat b.toNat)

/-- MUL is commutative and associative, distributes over ADD, and has ONE as its identity. -/
def Obligations.MulRingLaws : Prop :=
  ∀ a b c : Elem,
    fieldMul a oneElem = a ∧ fieldMul a b = fieldMul b a
    ∧ fieldMul (fieldMul a b) c = fieldMul a (fieldMul b c)
    ∧ fieldMul (fieldAdd a b) c = fieldAdd (fieldMul a c) (fieldMul b c)

/-- A product is zero only when a factor is: f is irreducible. The spec marks this consequence as its own
inference: spec/93_implementation_defined.md section 2, "MUL(a, b) = 0 only when a = 0 or b = 0". -/
def Obligations.MulHasNoZeroDivisors : Prop :=
  ∀ a b : Elem, fieldMul a b = zeroElem → a = zeroElem ∨ b = zeroElem

/-- The squarer's scan: after `k` positions every position from 383 − k up is clear, so the result is
below 2^191 when all are done; and a scan that starts at 380 gives the same square. The spec marks
the invariants as its own inference ("Invariants and closure", spec/43_square.md). -/
def Obligations.SquarerScanClearsFromTheTop : Prop :=
  ∀ a : Elem,
    (∀ i, (spread a).getLsbD i = (decide (i % 2 = 0) && a.getLsbD (i / 2)))
    ∧ (∀ k, k ≤ 192 →
        (repeatStep sqrStep k (sqrStart a)).si.toNat = 382 - k
        ∧ ∀ i, 383 - k ≤ i → (repeatStep sqrStep k (sqrStart a)).sw.getLsbD i = false)
    ∧ (foldDown 190 (spread a)).setWidth 191 = fieldSqr a

/-- The laws of SQR. The source's are the first two; the spec marks the additive law as its own inference
(spec/43_square.md, "Laws of SQR"). -/
def Obligations.SqrLaws : Prop :=
  ∀ a b : Elem,
    fieldSqr a = fieldMul a a
    ∧ fieldMul (fieldSqr a) (fieldSqr a) = fieldSqr (fieldSqr a)
    ∧ (fieldSqr a).toNat = polymod (spread a).toNat
    ∧ (spread a).toNat = clmul a.toNat a.toNat
    ∧ fieldSqr (fieldAdd a b) = fieldAdd (fieldSqr a) (fieldSqr b)
    ∧ (fieldSqr a = fieldSqr b → a = b)
    ∧ (fieldSqr a = zeroElem → a = zeroElem)

/-- SQR as a fixed linear map, by the table of the squares of the basis. The spec marks the table as its
own inference ("SQR as a fixed linear map", spec/43_square.md). -/
def Obligations.SqrByTheTable : Prop :=
  (∀ i, i < 191 → fieldSqr (BitVec.twoPow 191 i) = squareOfBasis i)
  ∧ ∀ a : Elem, fieldSqr a = squareByTable a 191

/-- The Bézout relations of the inverter's loop, before and after every step, for every nonzero operand. The
spec marks them as its own inference ("evolving Bézout coefficients", spec/44_inverse.md). -/
def Obligations.InverterBezoutRelations : Prop :=
  ∀ (a : Elem) (k : Nat), a ≠ zeroElem →
    let r := repeatStep invStep k (invStart a)
    polymod (clmul r.eu.toNat a.toNat) = polymod r.ea.toNat
    ∧ polymod (clmul r.ev.toNat a.toNat) = polymod r.eb.toNat
    ∧ clmul r.ea.toNat r.ev.toNat ^^^ clmul r.eb.toNat r.eu.toNat = reductionPolynomial.toNat

/-- Neither EA nor EB is ever zero and EB is never 1, and neither mask ever removes a set bit, for every
nonzero operand. The spec marks both as its own inferences ("Neither EA nor EB is ever zero", "The masks",
spec/44_inverse.md). -/
def Obligations.InverterNeverMeetsZeroAndMasksNothing : Prop :=
  ∀ (a : Elem) (k : Nat), a ≠ zeroElem →
    let r := repeatStep invStep k (invStart a)
    let j := (degree r.ea - degree r.eb).toNat
    r.ea ≠ 0#192 ∧ r.eb ≠ 0#192 ∧ r.eb ≠ 1#192
    ∧ (r.ea ≠ 1#192 → degree r.eb ≤ degree r.ea →
        r.ea.toNat ^^^ (r.eb.toNat <<< j) < 2 ^ 191
        ∧ r.eu.toNat ^^^ (r.ev.toNat <<< j) < 2 ^ 191)

/-- The inverter ends within 760 steps for every nonzero operand, and INV answers its EU. The spec marks
the bound as its own inference ("Termination and step bound", spec/44_inverse.md; log 7). -/
def Obligations.InverterEndsInBoundedSteps : Prop :=
  ∀ a : Elem, a ≠ zeroElem →
    (repeatStep invStep 760 (invStart a)).ea = 1#192
    ∧ fieldInv a = .ok (repeatStep invStep 760 (invStart a)).eu

/-- The laws of INV. The source's are that the product is ONE and that zero fails; the spec marks the
consequences as its own inference ("Laws of INV", spec/44_inverse.md). -/
def Obligations.InvLaws : Prop :=
  (∀ a : Elem, a ≠ zeroElem → ∃ c, fieldInv a = .ok c ∧ fieldMul a c = oneElem
    ∧ c ≠ zeroElem ∧ fieldInv c = .ok a
    ∧ ∀ c', fieldMul a c' = oneElem → c' = c)
  ∧ fieldInv zeroElem = .err .divByZero
  ∧ fieldInv oneElem = .ok oneElem

/-- The zero conventions of POW. The spec marks the second as its own inference ("Zero conventions",
spec/45_power.md). -/
def Obligations.PowZeroConventions : Prop :=
  (∀ a : Elem, fieldPow a 0 = oneElem) ∧ ∀ n, 1 ≤ n → fieldPow zeroElem n = zeroElem

/-- The laws of POW, its closed form, and the invariant of its loop. The spec marks the last two as its own
inference ("Laws of POW", spec/45_power.md). -/
def Obligations.PowLaws : Prop :=
  ∀ (a : Elem) (m n : Nat),
    fieldPow a (m + n) = fieldMul (fieldPow a m) (fieldPow a n)
    ∧ fieldPow a 0 = oneElem ∧ fieldPow a 1 = a ∧ fieldPow oneElem n = oneElem
    ∧ fieldPow a n = foldProduct a n
    ∧ ∀ k, let u := repeatStep powStep k (powStart a n)
        fieldMul u.pr (foldProduct u.pb u.pn) = foldProduct a n

/-- The engine takes one step per bit of `n` up to its highest set bit, and multiplies once per set bit; on
a port of EXP_W wires that is at most EXP_W steps. The spec marks it as its own inference ("Step count",
spec/45_power.md). -/
def Obligations.EngineStepCount : Prop :=
  ∀ (a : Elem) (n : Nat),
    (∀ k, (repeatStep powStep k (powStart a n)).pn = n >>> k)
    ∧ (∀ k, (repeatStep powStep k (powStart a n)).pn = 0 ↔ bitLength n ≤ k)
    ∧ ((List.range (bitLength n)).countP
        fun k => (repeatStep powStep k (powStart a n)).pn.testBit 0) = popCountLow n (bitLength n)
    ∧ ∀ expW, n < 2 ^ expW → bitLength n ≤ expW

/-- The nonzero elements form a group of order 2^191 − 1: POW with the exponent 2^191 − 2 is INV.
The spec takes it from general knowledge ("Relation to INV, for test benches only", spec/45_power.md). -/
def Obligations.PowOfGroupOrder : Prop :=
  ∀ a : Elem, a ≠ zeroElem →
    fieldPow a (2 ^ 191 - 1) = oneElem ∧ fieldInv a = .ok (fieldPow a (2 ^ 191 - 2))

/-! ### Construction, text and notation -/

/-- R75: the 48 digits of TO_HEX, the most significant first, and its first digit. -/
def Obligations.ToHexDigits : Prop :=
  ∀ e : Elem, (toHex e).length = 48
    ∧ (∀ k, k < 48 → (toHex e)[47 - k]? = some (hexChar (e.toNat / 16 ^ k % 16)))
    ∧ (∀ d, d < 16 → some (hexChar d)
        = ['0', '1', '2', '3', '4', '5', '6', '7', '8', '9', 'A', 'B', 'C', 'D', 'E', 'F'][d]?)
    ∧ ∃ d, d ≤ 7 ∧ (toHex e).head? = some (hexChar d)

/-- R76: FROM_HEX, its domain and the two round trips. -/
def Obligations.HexRoundTrips : Prop :=
  (∀ e : Elem, fromHex (toHex e) = some e)
  ∧ (∀ (text : List Char) (v : Nat), 1 ≤ text.length → text.length ≤ 48 →
      spell 16 hexValue 0 text = some v → fromHex text = some (fromValue v))
  ∧ (∀ (text : List Char) (e : Elem), fromHex text = some e →
      1 ≤ text.length ∧ text.length ≤ 48
      ∧ (∃ v, spell 16 hexValue 0 text = some v ∧ e.toNat = v % 2 ^ 191)
      ∧ (toHex e = text ↔ isCanonicalHex text = true))

/-- A line the assembler accepts is a command that fits the ports, and the fields its mnemonic does not
write are zero. What a line may look like beyond the spec's own lines is the model's choice (log 10). -/
def Obligations.AssembledLineFits : Prop :=
  ∀ (expW : Nat) (line : List Char) (i : Instr), assemble expW line = .ok i →
    i.wellFormed expW = true
    ∧ (readsField i.opCode .a = false → i.fieldA = zeroElem)
    ∧ (readsField i.opCode .b = false → i.fieldB = zeroElem)
    ∧ (readsField i.opCode .n = false → i.fieldN = 0)
end

