-- ==== Sys2Proof/Laws/State.lean ====
section
/-! SUPPORT. One lemma per field per update of State, each true by unfolding, so that no later proof
unfolds a record update. -/

namespace Sys2Proof.Machine

section
variable (s : State) (res : Result)

/-! What a completing edge writes (R157). -/

@[simp] theorem State.respond_busy : (s.respond res).busy = false := rfl
@[simp] theorem State.respond_done : (s.respond res).done = true := rfl
@[simp] theorem State.respond_err : (s.respond res).err = res.errBits := rfl
@[simp] theorem State.respond_c : (s.respond res).c = res.data := rfl
@[simp] theorem State.respond_opc : (s.respond res).opc = s.opc := rfl
@[simp] theorem State.respond_opa : (s.respond res).opa = s.opa := rfl
@[simp] theorem State.respond_opb : (s.respond res).opb = s.opb := rfl
@[simp] theorem State.respond_opn : (s.respond res).opn = s.opn := rfl
@[simp] theorem State.respond_mulRegs : (s.respond res).mulRegs = s.mulRegs := rfl
@[simp] theorem State.respond_sqrRegs : (s.respond res).sqrRegs = s.sqrRegs := rfl
@[simp] theorem State.respond_invRegs : (s.respond res).invRegs = s.invRegs := rfl
@[simp] theorem State.respond_powRegs : (s.respond res).powRegs = s.powRegs := rfl
@[simp] theorem State.respond_expW : (s.respond res).expW = s.expW := rfl
@[simp] theorem State.respond_edgesLeft : (s.respond res).edgesLeft = 0 := rfl
@[simp] theorem State.respond_pins : (s.respond res).pins = s.pins := rfl
@[simp] theorem State.respond_resets : (s.respond res).resets = s.resets := rfl

end

section
variable (s : State) (code : ErrCode)

/-! What an error response writes (R135). -/

@[simp] theorem State.raise_busy : (s.raise code).busy = false := rfl
@[simp] theorem State.raise_done : (s.raise code).done = true := rfl
@[simp] theorem State.raise_err : (s.raise code).err = code.bits := rfl
@[simp] theorem State.raise_c : (s.raise code).c = zeroElem := rfl
@[simp] theorem State.raise_opc : (s.raise code).opc = s.opc := rfl
@[simp] theorem State.raise_opa : (s.raise code).opa = s.opa := rfl
@[simp] theorem State.raise_opb : (s.raise code).opb = s.opb := rfl
@[simp] theorem State.raise_opn : (s.raise code).opn = s.opn := rfl
@[simp] theorem State.raise_mulRegs : (s.raise code).mulRegs = s.mulRegs := rfl
@[simp] theorem State.raise_sqrRegs : (s.raise code).sqrRegs = s.sqrRegs := rfl
@[simp] theorem State.raise_invRegs : (s.raise code).invRegs = s.invRegs := rfl
@[simp] theorem State.raise_powRegs : (s.raise code).powRegs = s.powRegs := rfl
@[simp] theorem State.raise_expW : (s.raise code).expW = s.expW := rfl
@[simp] theorem State.raise_edgesLeft : (s.raise code).edgesLeft = 0 := rfl
@[simp] theorem State.raise_pins : (s.raise code).pins = s.pins := rfl
@[simp] theorem State.raise_resets : (s.raise code).resets = s.resets := rfl

end

section
variable (s : State) (op : OpCode) (a b : Elem) (n lat : Nat)

/-! What an accepting edge writes (R155). -/

@[simp] theorem State.latch_busy : (s.latch op a b n lat).busy = true := rfl
@[simp] theorem State.latch_done : (s.latch op a b n lat).done = false := rfl
@[simp] theorem State.latch_err : (s.latch op a b n lat).err = s.err := rfl
@[simp] theorem State.latch_c : (s.latch op a b n lat).c = s.c := rfl
@[simp] theorem State.latch_opc : (s.latch op a b n lat).opc = op := rfl
@[simp] theorem State.latch_opa : (s.latch op a b n lat).opa = a := rfl
@[simp] theorem State.latch_opb : (s.latch op a b n lat).opb = b := rfl
@[simp] theorem State.latch_opn : (s.latch op a b n lat).opn = n := rfl
@[simp] theorem State.latch_mulRegs : (s.latch op a b n lat).mulRegs = s.mulRegs := rfl
@[simp] theorem State.latch_sqrRegs : (s.latch op a b n lat).sqrRegs = s.sqrRegs := rfl
@[simp] theorem State.latch_invRegs : (s.latch op a b n lat).invRegs = s.invRegs := rfl
@[simp] theorem State.latch_powRegs : (s.latch op a b n lat).powRegs = s.powRegs := rfl
@[simp] theorem State.latch_expW : (s.latch op a b n lat).expW = s.expW := rfl
@[simp] theorem State.latch_edgesLeft : (s.latch op a b n lat).edgesLeft = lat := rfl
@[simp] theorem State.latch_pins : (s.latch op a b n lat).pins = s.pins := rfl
@[simp] theorem State.latch_resets : (s.latch op a b n lat).resets = s.resets := rfl

end

section
variable (s : State)

/-! What an edge does to the inputs to come. -/

@[simp] theorem State.advancePins_busy : (s.advancePins).busy = s.busy := rfl
@[simp] theorem State.advancePins_done : (s.advancePins).done = s.done := rfl
@[simp] theorem State.advancePins_err : (s.advancePins).err = s.err := rfl
@[simp] theorem State.advancePins_c : (s.advancePins).c = s.c := rfl
@[simp] theorem State.advancePins_opc : (s.advancePins).opc = s.opc := rfl
@[simp] theorem State.advancePins_opa : (s.advancePins).opa = s.opa := rfl
@[simp] theorem State.advancePins_opb : (s.advancePins).opb = s.opb := rfl
@[simp] theorem State.advancePins_opn : (s.advancePins).opn = s.opn := rfl
@[simp] theorem State.advancePins_mulRegs : (s.advancePins).mulRegs = s.mulRegs := rfl
@[simp] theorem State.advancePins_sqrRegs : (s.advancePins).sqrRegs = s.sqrRegs := rfl
@[simp] theorem State.advancePins_invRegs : (s.advancePins).invRegs = s.invRegs := rfl
@[simp] theorem State.advancePins_powRegs : (s.advancePins).powRegs = s.powRegs := rfl
@[simp] theorem State.advancePins_expW : (s.advancePins).expW = s.expW := rfl
@[simp] theorem State.advancePins_edgesLeft : (s.advancePins).edgesLeft = s.edgesLeft := rfl
@[simp] theorem State.advancePins_pins : (s.advancePins).pins = s.pins.tail := rfl
@[simp] theorem State.advancePins_resets : (s.advancePins).resets = s.resets := rfl

end

section
variable (s : State)

/-! What releasing the next edge's reset changes. -/

@[simp] theorem State.releaseReset_busy : (s.releaseReset).busy = s.busy := rfl
@[simp] theorem State.releaseReset_done : (s.releaseReset).done = s.done := rfl
@[simp] theorem State.releaseReset_err : (s.releaseReset).err = s.err := rfl
@[simp] theorem State.releaseReset_c : (s.releaseReset).c = s.c := rfl
@[simp] theorem State.releaseReset_opc : (s.releaseReset).opc = s.opc := rfl
@[simp] theorem State.releaseReset_opa : (s.releaseReset).opa = s.opa := rfl
@[simp] theorem State.releaseReset_opb : (s.releaseReset).opb = s.opb := rfl
@[simp] theorem State.releaseReset_opn : (s.releaseReset).opn = s.opn := rfl
@[simp] theorem State.releaseReset_mulRegs : (s.releaseReset).mulRegs = s.mulRegs := rfl
@[simp] theorem State.releaseReset_sqrRegs : (s.releaseReset).sqrRegs = s.sqrRegs := rfl
@[simp] theorem State.releaseReset_invRegs : (s.releaseReset).invRegs = s.invRegs := rfl
@[simp] theorem State.releaseReset_powRegs : (s.releaseReset).powRegs = s.powRegs := rfl
@[simp] theorem State.releaseReset_expW : (s.releaseReset).expW = s.expW := rfl
@[simp] theorem State.releaseReset_edgesLeft : (s.releaseReset).edgesLeft = s.edgesLeft := rfl
@[simp] theorem State.releaseReset_pins : (s.releaseReset).pins = s.pins.modifyHead fun p => { p with rst := false } := rfl
@[simp] theorem State.releaseReset_resets : (s.releaseReset).resets = s.resets := rfl

end

section
variable (s : State)

/-! What starting a unit writes (R155). -/

@[simp] theorem State.startUnit_busy : (s.startUnit).busy = s.busy := rfl
@[simp] theorem State.startUnit_done : (s.startUnit).done = s.done := rfl
@[simp] theorem State.startUnit_err : (s.startUnit).err = s.err := rfl
@[simp] theorem State.startUnit_c : (s.startUnit).c = s.c := rfl
@[simp] theorem State.startUnit_opc : (s.startUnit).opc = s.opc := rfl
@[simp] theorem State.startUnit_opa : (s.startUnit).opa = s.opa := rfl
@[simp] theorem State.startUnit_opb : (s.startUnit).opb = s.opb := rfl
@[simp] theorem State.startUnit_opn : (s.startUnit).opn = s.opn := rfl
@[simp] theorem State.startUnit_mulRegs : (s.startUnit).mulRegs = if s.opc = 1#3 then mulStart s.opa else s.mulRegs := rfl
@[simp] theorem State.startUnit_sqrRegs : (s.startUnit).sqrRegs = if s.opc = 2#3 then sqrStart s.opa else s.sqrRegs := rfl
@[simp] theorem State.startUnit_invRegs : (s.startUnit).invRegs =
    if s.opc = 3#3 ∧ s.opa ≠ zeroElem then invStart s.opa else s.invRegs := rfl
@[simp] theorem State.startUnit_powRegs : (s.startUnit).powRegs = if s.opc = 4#3 then powStart s.opa s.opn else s.powRegs := rfl
@[simp] theorem State.startUnit_expW : (s.startUnit).expW = s.expW := rfl
@[simp] theorem State.startUnit_edgesLeft : (s.startUnit).edgesLeft = s.edgesLeft := rfl
@[simp] theorem State.startUnit_pins : (s.startUnit).pins = s.pins := rfl
@[simp] theorem State.startUnit_resets : (s.startUnit).resets = s.resets := rfl

end

section
variable (s : State) (k : Nat)

/-! What the steps of a unit write (R160). -/

@[simp] theorem State.workUnit_busy : (s.workUnit k).busy = s.busy := rfl
@[simp] theorem State.workUnit_done : (s.workUnit k).done = s.done := rfl
@[simp] theorem State.workUnit_err : (s.workUnit k).err = s.err := rfl
@[simp] theorem State.workUnit_c : (s.workUnit k).c = s.c := rfl
@[simp] theorem State.workUnit_opc : (s.workUnit k).opc = s.opc := rfl
@[simp] theorem State.workUnit_opa : (s.workUnit k).opa = s.opa := rfl
@[simp] theorem State.workUnit_opb : (s.workUnit k).opb = s.opb := rfl
@[simp] theorem State.workUnit_opn : (s.workUnit k).opn = s.opn := rfl
@[simp] theorem State.workUnit_mulRegs : (s.workUnit k).mulRegs =
    if s.opc = 1#3 then repeatStep (mulStep s.opb) k s.mulRegs else s.mulRegs := rfl
@[simp] theorem State.workUnit_sqrRegs : (s.workUnit k).sqrRegs =
    if s.opc = 2#3 then repeatStep sqrStep k s.sqrRegs else s.sqrRegs := rfl
@[simp] theorem State.workUnit_invRegs : (s.workUnit k).invRegs =
    if s.opc = 3#3 ∧ s.opa ≠ zeroElem then repeatStep invStep k s.invRegs else s.invRegs := rfl
@[simp] theorem State.workUnit_powRegs : (s.workUnit k).powRegs =
    if s.opc = 4#3 then repeatStep powStep k s.powRegs else s.powRegs := rfl
@[simp] theorem State.workUnit_expW : (s.workUnit k).expW = s.expW := rfl
@[simp] theorem State.workUnit_edgesLeft : (s.workUnit k).edgesLeft = s.edgesLeft := rfl
@[simp] theorem State.workUnit_pins : (s.workUnit k).pins = s.pins := rfl
@[simp] theorem State.workUnit_resets : (s.workUnit k).resets = s.resets := rfl

end

section
variable (s : State) (t : Timing)

/-! What a working edge writes (R159). -/

@[simp] theorem State.workEdge_busy : (s.workEdge t).busy = s.busy := rfl
@[simp] theorem State.workEdge_done : (s.workEdge t).done = s.done := rfl
@[simp] theorem State.workEdge_err : (s.workEdge t).err = s.err := rfl
@[simp] theorem State.workEdge_c : (s.workEdge t).c = s.c := rfl
@[simp] theorem State.workEdge_opc : (s.workEdge t).opc = s.opc := rfl
@[simp] theorem State.workEdge_opa : (s.workEdge t).opa = s.opa := rfl
@[simp] theorem State.workEdge_opb : (s.workEdge t).opb = s.opb := rfl
@[simp] theorem State.workEdge_opn : (s.workEdge t).opn = s.opn := rfl
@[simp] theorem State.workEdge_mulRegs : (s.workEdge t).mulRegs =
    if s.opc = 1#3 then repeatStep (mulStep s.opb) (t.pace s.opc s.opa s.opb s.opn s.edgesLeft) s.mulRegs else s.mulRegs := rfl
@[simp] theorem State.workEdge_sqrRegs : (s.workEdge t).sqrRegs =
    if s.opc = 2#3 then repeatStep sqrStep (t.pace s.opc s.opa s.opb s.opn s.edgesLeft) s.sqrRegs else s.sqrRegs := rfl
@[simp] theorem State.workEdge_invRegs : (s.workEdge t).invRegs =
    if s.opc = 3#3 ∧ s.opa ≠ zeroElem then repeatStep invStep (t.pace s.opc s.opa s.opb s.opn s.edgesLeft) s.invRegs else s.invRegs := rfl
@[simp] theorem State.workEdge_powRegs : (s.workEdge t).powRegs =
    if s.opc = 4#3 then repeatStep powStep (t.pace s.opc s.opa s.opb s.opn s.edgesLeft) s.powRegs else s.powRegs := rfl
@[simp] theorem State.workEdge_expW : (s.workEdge t).expW = s.expW := rfl
@[simp] theorem State.workEdge_edgesLeft : (s.workEdge t).edgesLeft = s.edgesLeft - 1 := rfl
@[simp] theorem State.workEdge_pins : (s.workEdge t).pins = s.pins := rfl
@[simp] theorem State.workEdge_resets : (s.workEdge t).resets = s.resets := rfl

end

section
variable (s : State) (a : Elem)

/-! What finishing the inverter writes (R106, R107). -/

@[simp] theorem State.finishInverter_busy : (s.finishInverter a).busy = s.busy := rfl
@[simp] theorem State.finishInverter_done : (s.finishInverter a).done = s.done := rfl
@[simp] theorem State.finishInverter_err : (s.finishInverter a).err = s.err := rfl
@[simp] theorem State.finishInverter_c : (s.finishInverter a).c = s.c := rfl
@[simp] theorem State.finishInverter_opc : (s.finishInverter a).opc = s.opc := rfl
@[simp] theorem State.finishInverter_opa : (s.finishInverter a).opa = s.opa := rfl
@[simp] theorem State.finishInverter_opb : (s.finishInverter a).opb = s.opb := rfl
@[simp] theorem State.finishInverter_opn : (s.finishInverter a).opn = s.opn := rfl
@[simp] theorem State.finishInverter_mulRegs : (s.finishInverter a).mulRegs = s.mulRegs := rfl
@[simp] theorem State.finishInverter_sqrRegs : (s.finishInverter a).sqrRegs = s.sqrRegs := rfl
@[simp] theorem State.finishInverter_invRegs : (s.finishInverter a).invRegs = if a = zeroElem then s.invRegs else invFinish a := rfl
@[simp] theorem State.finishInverter_powRegs : (s.finishInverter a).powRegs = s.powRegs := rfl
@[simp] theorem State.finishInverter_expW : (s.finishInverter a).expW = s.expW := rfl
@[simp] theorem State.finishInverter_edgesLeft : (s.finishInverter a).edgesLeft = s.edgesLeft := rfl
@[simp] theorem State.finishInverter_pins : (s.finishInverter a).pins = s.pins := rfl
@[simp] theorem State.finishInverter_resets : (s.finishInverter a).resets = s.resets := rfl

end

section
variable (s : State) (p : Pins) (lat : Nat)

/-! What taking a command writes (R155). -/

@[simp] theorem State.takeCommand_busy : (s.takeCommand p lat).busy = true := rfl
@[simp] theorem State.takeCommand_done : (s.takeCommand p lat).done = false := rfl
@[simp] theorem State.takeCommand_err : (s.takeCommand p lat).err = s.err := rfl
@[simp] theorem State.takeCommand_c : (s.takeCommand p lat).c = s.c := rfl
@[simp] theorem State.takeCommand_opc : (s.takeCommand p lat).opc = p.op := rfl
@[simp] theorem State.takeCommand_opa : (s.takeCommand p lat).opa = p.a := rfl
@[simp] theorem State.takeCommand_opb : (s.takeCommand p lat).opb = p.b := rfl
@[simp] theorem State.takeCommand_opn : (s.takeCommand p lat).opn = p.n := rfl
@[simp] theorem State.takeCommand_mulRegs : (s.takeCommand p lat).mulRegs = if p.op = 1#3 then mulStart p.a else s.mulRegs := rfl
@[simp] theorem State.takeCommand_sqrRegs : (s.takeCommand p lat).sqrRegs = if p.op = 2#3 then sqrStart p.a else s.sqrRegs := rfl
@[simp] theorem State.takeCommand_invRegs : (s.takeCommand p lat).invRegs =
    if p.op = 3#3 ∧ p.a ≠ zeroElem then invStart p.a else s.invRegs := rfl
@[simp] theorem State.takeCommand_powRegs : (s.takeCommand p lat).powRegs = if p.op = 4#3 then powStart p.a p.n else s.powRegs := rfl
@[simp] theorem State.takeCommand_expW : (s.takeCommand p lat).expW = s.expW := rfl
@[simp] theorem State.takeCommand_edgesLeft : (s.takeCommand p lat).edgesLeft = lat := rfl
@[simp] theorem State.takeCommand_pins : (s.takeCommand p lat).pins = s.pins := rfl
@[simp] theorem State.takeCommand_resets : (s.takeCommand p lat).resets = s.resets := rfl

end

section
variable (s : State)

/-! What a reset edge writes (R150): the free values are left as they stand in the definition. -/

@[simp] theorem State.resetEdge_busy : s.resetEdge.busy = false := rfl
@[simp] theorem State.resetEdge_done : s.resetEdge.done = false := rfl
@[simp] theorem State.resetEdge_err : s.resetEdge.err = 0#2 := rfl
@[simp] theorem State.resetEdge_c : s.resetEdge.c = zeroElem := rfl
@[simp] theorem State.resetEdge_opn : s.resetEdge.opn = Config.unspecified .opn s.resets % 2 ^ s.expW := rfl
@[simp] theorem State.resetEdge_expW : s.resetEdge.expW = s.expW := rfl
@[simp] theorem State.resetEdge_edgesLeft : s.resetEdge.edgesLeft = 0 := rfl
@[simp] theorem State.resetEdge_pins : s.resetEdge.pins = s.pins := rfl
@[simp] theorem State.resetEdge_resets : s.resetEdge.resets = s.resets + 1 := rfl
@[simp] theorem State.resetEdge_pn :
    s.resetEdge.powRegs.pn = Config.unspecified .pn s.resets % 2 ^ s.expW := rfl

end

end Sys2Proof.Machine
end

