-- ==== Sys2Proof/Laws/Ops.lean ====
section
/-! SUPPORT. One lemma per shared operation that says once what it can do: the repetition of a step, the
decoder's fields, the host's wires, exec, and the edge function. -/

namespace Sys2Proof.Machine

/-! ### Repetition -/

@[simp] theorem repeatStep_zero {α : Type} (f : α → α) (x : α) : repeatStep f 0 x = x := rfl

theorem repeatStep_succ {α : Type} (f : α → α) (k : Nat) (x : α) :
    repeatStep f (k + 1) x = repeatStep f k (f x) := rfl

theorem repeatStep_add {α : Type} (f : α → α) (j k : Nat) (x : α) :
    repeatStep f (j + k) x = repeatStep f k (repeatStep f j x) := by
  induction j generalizing x with
  | zero => simp
  | succ j ih => rw [Nat.succ_add, repeatStep_succ, repeatStep_succ, ih]

theorem repeatStep_succ' {α : Type} (f : α → α) (k : Nat) (x : α) :
    repeatStep f (k + 1) x = f (repeatStep f k x) := by
  rw [repeatStep_add]; rfl

/-- A finished unit stays. -/
theorem repeatStep_of_fixed {α : Type} (f : α → α) (k : Nat) (x : α) (h : f x = x) :
    repeatStep f k x = x := by
  induction k with
  | zero => rfl
  | succ k ih => rw [repeatStep_succ, h, ih]

/-- What holds before and is kept by a step holds after any number of them. -/
theorem repeatStep_induct {α : Type} (P : α → Prop) (f : α → α) (hf : ∀ x, P x → P (f x)) (k : Nat)
    (x : α) (hx : P x) : P (repeatStep f k x) := by
  induction k generalizing x with
  | zero => exact hx
  | succ k ih => exact ih (f x) (hf x hx)

/-! ### The decoder's fields -/

/-- The eight operation codes. -/
theorem opCode_cases (op : OpCode) :
    op = 0#3 ∨ op = 1#3 ∨ op = 2#3 ∨ op = 3#3 ∨ op = 4#3 ∨ op = 5#3 ∨ op = 6#3 ∨ op = 7#3 := by
  revert op; decide

@[simp] theorem decodeFields_opCode (op : OpCode) (a b : Elem) (n : Nat) :
    (decodeFields op a b n).opCode = op := by
  rcases opCode_cases op with rfl | rfl | rfl | rfl | rfl | rfl | rfl | rfl <;> rfl

@[simp] theorem decodeFields_fieldA (op : OpCode) (a b : Elem) (n : Nat) :
    (decodeFields op a b n).fieldA = a := by
  rcases opCode_cases op with rfl | rfl | rfl | rfl | rfl | rfl | rfl | rfl <;> rfl

@[simp] theorem decodeFields_fieldB (op : OpCode) (a b : Elem) (n : Nat) :
    (decodeFields op a b n).fieldB = b := by
  rcases opCode_cases op with rfl | rfl | rfl | rfl | rfl | rfl | rfl | rfl <;> rfl

@[simp] theorem decodeFields_fieldN (op : OpCode) (a b : Elem) (n : Nat) :
    (decodeFields op a b n).fieldN = n := by
  rcases opCode_cases op with rfl | rfl | rfl | rfl | rfl | rfl | rfl | rfl <;> rfl

@[simp] theorem decodeFields_of_fields (i : Instr) :
    decodeFields i.opCode i.fieldA i.fieldB i.fieldN = i := by
  cases i <;> rfl

/-! ### The host's wires -/

theorem nextPins_of_pins {s : State} {p : Pins} {later : List Pins} (h : s.pins = p :: later) :
    s.nextPins = p := by
  simp [State.nextPins, h]

theorem nextPins_of_no_pins {s : State} (h : s.pins = []) : s.nextPins = Pins.idle := by
  simp [State.nextPins, h]

@[simp] theorem releaseReset_nextPins_rst (s : State) : s.releaseReset.nextPins.rst = false := by
  unfold State.nextPins State.releaseReset
  cases s.pins <;> rfl

/-! ### exec -/

/-- Everything a command can do at its completing edge: it answers, its response is EXEC of its fields, and
besides the response only the working registers of its own unit change. -/
theorem exec_cases (i : Instr) (s : State) :
    ∃ (m : MulRegs) (q : SqrRegs) (v : InvRegs) (p : PowRegs),
      exec i s = .next ({ s with mulRegs := m, sqrRegs := q, invRegs := v, powRegs := p }.respond
        (commandResult i.opCode i.fieldA i.fieldB i.fieldN))
      ∧ (m = s.mulRegs ∨ i.opCode = 1#3 ∧ m = mulFinish i.fieldA i.fieldB)
      ∧ (q = s.sqrRegs ∨ i.opCode = 2#3 ∧ q = sqrFinish i.fieldA)
      ∧ (v = s.invRegs ∨ i.opCode = 3#3 ∧ i.fieldA ≠ zeroElem ∧ v = invFinish i.fieldA)
      ∧ (p = s.powRegs ∨ i.opCode = 4#3 ∧ p = powFinish i.fieldA i.fieldN) := by
  cases i with
  | add a b n => exact ⟨_, _, _, _, rfl, .inl rfl, .inl rfl, .inl rfl, .inl rfl⟩
  | mul a b n => exact ⟨_, _, _, _, rfl, .inr ⟨rfl, rfl⟩, .inl rfl, .inl rfl, .inl rfl⟩
  | sqr a b n => exact ⟨_, _, _, _, rfl, .inl rfl, .inr ⟨rfl, rfl⟩, .inl rfl, .inl rfl⟩
  | inv a b n =>
    by_cases h : a = zeroElem
    · subst h
      exact ⟨_, _, _, _, rfl, .inl rfl, .inl rfl, .inl rfl, .inl rfl⟩
    · refine ⟨s.mulRegs, s.sqrRegs, invFinish a, s.powRegs, ?_, .inl rfl, .inl rfl,
        .inr ⟨rfl, h, rfl⟩, .inl rfl⟩
      simp [exec, execInv, fieldInv, State.finishInverter, commandResult, Instr.opCode, Instr.fieldA, h]
  | pow a b n => exact ⟨_, _, _, _, rfl, .inl rfl, .inl rfl, .inl rfl, .inr ⟨rfl, rfl⟩⟩
  | rsv5 a b n => exact ⟨_, _, _, _, rfl, .inl rfl, .inl rfl, .inl rfl, .inl rfl⟩
  | rsv6 a b n => exact ⟨_, _, _, _, rfl, .inl rfl, .inl rfl, .inl rfl, .inl rfl⟩
  | rsv7 a b n => exact ⟨_, _, _, _, rfl, .inl rfl, .inl rfl, .inl rfl, .inl rfl⟩

/-! ### The edge function -/

/-- Everything an edge can do when it answers: the four cases of R154, the last one split into an idle and a
working edge. -/
theorem edge_cases {t : Timing} {s s' : State} (h : edge t s = .next s') :
    (s.nextPins.rst = true ∧ s' = s.advancePins.resetEdge)
    ∨ (s.nextPins.rst = false ∧ s.busy = false ∧ s.nextPins.start = true
        ∧ s.nextPins.n < 2 ^ s.expW
        ∧ s' = s.advancePins.takeCommand s.nextPins
            (t.lat s.nextPins.op s.nextPins.a s.nextPins.b s.nextPins.n))
    ∨ (s.nextPins.rst = false ∧ s.busy = true ∧ s.edgesLeft ≤ 1
        ∧ exec s.latched s.advancePins = .next s')
    ∨ (s.nextPins.rst = false ∧ s.busy = false ∧ s.nextPins.start = false ∧ s' = s.advancePins)
    ∨ (s.nextPins.rst = false ∧ s.busy = true ∧ 2 ≤ s.edgesLeft ∧ s' = s.advancePins.workEdge t) := by
  unfold edge acceptEdge at h
  cases hr : s.nextPins.rst <;> cases hb : s.busy <;> cases hs : s.nextPins.start <;>
    simp only [hr, hb, hs, Bool.not_true, Bool.not_false, if_true, if_false, Bool.false_eq_true] at h
  case false.false.false => injection h with h; simp [h]
  case false.false.true =>
    split at h
    · next hn =>
      injection h with h
      have hn : s.nextPins.n < 2 ^ s.expW := of_decide_eq_true hn
      simp [hn, h]
    · cases h
  case false.true.false | false.true.true =>
    split at h
    · next hl => simp_all
    · next hl => injection h with h; simp_all; omega
  all_goals injection h with h; simp [h]

end Sys2Proof.Machine
end

