-- ==== Sys2Proof/Laws/PerInstr.lean ====
section
/-! SUPPORT. Statements made per instruction, one lemma per constructor. The family EncodedOp says that the
low three bits of a command word are the command's operation code, which is what the masks of
spec/opcode_table.json match on (R50, R52). -/

namespace Sys2Proof.Laws.EncodedOp

/-- The low three bits of the word of `i` are its operation code. -/
def Statement (i : Instr) : Prop := encode i % 2 ^ 3 = i.opCode.toNat

theorem packWord_mod (op : OpCode) (a b : Elem) (n : Nat) : packWord op a b n % 2 ^ 3 = op.toNat := by
  have h := op.isLt
  simp only [packWord, aLow, bLow, nLow, Nat.shiftLeft_eq]
  omega

theorem add (a b : Elem) (n : Nat) : Statement (.add a b n) := packWord_mod _ _ _ _
theorem mul (a b : Elem) (n : Nat) : Statement (.mul a b n) := packWord_mod _ _ _ _
theorem sqr (a b : Elem) (n : Nat) : Statement (.sqr a b n) := packWord_mod _ _ _ _
theorem inv (a b : Elem) (n : Nat) : Statement (.inv a b n) := packWord_mod _ _ _ _
theorem pow (a b : Elem) (n : Nat) : Statement (.pow a b n) := packWord_mod _ _ _ _
theorem rsv5 (a b : Elem) (n : Nat) : Statement (.rsv5 a b n) := packWord_mod _ _ _ _
theorem rsv6 (a b : Elem) (n : Nat) : Statement (.rsv6 a b n) := packWord_mod _ _ _ _
theorem rsv7 (a b : Elem) (n : Nat) : Statement (.rsv7 a b n) := packWord_mod _ _ _ _

end Sys2Proof.Laws.EncodedOp
end

