-- ==== Sys2Proof/Tests/Slice0.lean ====
section
/-! SUPPORT. The model's own tests. Every expected value is the spec's: a table or trace of
spec/95_test_vectors.md, or the worked example of a rule, named at the test. -/

set_option maxRecDepth 100000
set_option exponentiation.threshold 600

namespace Sys2Proof.Tests
open Sys2Proof Sys2Proof.Machine

/-- A and B of spec/95_test_vectors.md, its three operands. -/
abbrev a1 : Elem := 0x0123456789ABCDEF0123456789ABCDEF0123456789ABCDEF
abbrev b1 : Elem := 0x7EDCBA9876543210FEDCBA9876543210FEDCBA9876543210
abbrev c1 : Elem := 0x4000000000000000000000000000000000000000000000C5

/-- What the ports show after a step (BUSY, DONE, ERR, C). -/
def seen : Host.Outcome State Fault Refusal → Option (Bool × Bool × ErrBits × Elem)
  | .next s => some (s.busy, s.done, s.err, s.c)
  | .fault _ => none
  | .refused _ => none

/-- A timing for tests: LAT = 2 for every command, as in program P4, one loop step an edge. -/
def latTwo : Timing := ⟨fun _ _ _ _ => 1, fun _ _ _ _ _ => 1⟩

/-- The reset state with these inputs to come. -/
def driven (pins : List Pins) : State := { State.reset with pins := pins }

/-! ### Well-formed commands -/

/-- The one check refuses an exponent of 2^EXP_W (R122) and passes the largest that fits. -/
theorem test_wellFormed_refuses_wide_exponent : (Instr.pow 2 0 (2 ^ 192)).wellFormed 192 = false := by
  decide
theorem test_wellFormed_largest_exponent : (Instr.pow 2 0 (2 ^ 192 - 1)).wellFormed 192 = true := by
  decide

/-! ### Decoding: the eight words of section 3 of spec/95_test_vectors.md, whose last digit is the code -/

theorem test_decode_add :
    decode 192 0x7000000000000000000000000000000000000000000000314091A2B3C4D5E6F78091A2B3C4D5E6F78091A2B3C4D5E6F78
      = .ok (.add a1 c1 3) := by decide
theorem test_decode_mul :
    decode 192 0x7000000000000000000000000000000000000000000000314091A2B3C4D5E6F78091A2B3C4D5E6F78091A2B3C4D5E6F79
      = .ok (.mul a1 c1 3) := by decide
theorem test_decode_sqr :
    decode 192 0x7000000000000000000000000000000000000000000000314091A2B3C4D5E6F78091A2B3C4D5E6F78091A2B3C4D5E6F7A
      = .ok (.sqr a1 c1 3) := by decide
theorem test_decode_inv :
    decode 192 0x7000000000000000000000000000000000000000000000314091A2B3C4D5E6F78091A2B3C4D5E6F78091A2B3C4D5E6F7B
      = .ok (.inv a1 c1 3) := by decide
theorem test_decode_pow :
    decode 192 0x7000000000000000000000000000000000000000000000314091A2B3C4D5E6F78091A2B3C4D5E6F78091A2B3C4D5E6F7C
      = .ok (.pow a1 c1 3) := by decide
theorem test_decode_rsv5 :
    decode 192 0x7000000000000000000000000000000000000000000000314091A2B3C4D5E6F78091A2B3C4D5E6F78091A2B3C4D5E6F7D
      = .ok (.rsv5 a1 c1 3) := by decide
theorem test_decode_rsv6 :
    decode 192 0x7000000000000000000000000000000000000000000000314091A2B3C4D5E6F78091A2B3C4D5E6F78091A2B3C4D5E6F7E
      = .ok (.rsv6 a1 c1 3) := by decide
theorem test_decode_rsv7 :
    decode 192 0x7000000000000000000000000000000000000000000000314091A2B3C4D5E6F78091A2B3C4D5E6F78091A2B3C4D5E6F7F
      = .ok (.rsv7 a1 c1 3) := by decide
theorem test_encode_pow :
    encode (.pow a1 c1 3)
      = 0x7000000000000000000000000000000000000000000000314091A2B3C4D5E6F78091A2B3C4D5E6F78091A2B3C4D5E6F7C := by
  decide
/-- A word with a bit at position 385 + EXP_W is no command word (R50). -/
theorem test_decode_refuses_long_word : decode 192 (2 ^ 577) = .error .wordTooWide := by decide
/-! ### Each command at its completing edge -/

/-- AD7 and AD6. -/
theorem test_add_complements :
    seen (exec (.add a1 b1 0) State.reset) = some (false, true, 0, BitVec.allOnes 191) := by decide
theorem test_add_has_no_carry :
    seen (exec (.add (BitVec.allOnes 191) 1 7) State.reset)
      = some (false, true, 0, 0x7FFFFFFFFFFFFFFFFFFFFFFFFFFFFFFFFFFFFFFFFFFFFFFE) := by decide

/-- M15 and M8. -/
theorem test_mul_general :
    seen (exec (.mul a1 b1 0) State.reset)
      = some (false, true, 0, 0x062AE2FE06AA637F47EB233FC76BA2BE862AE2FE06AA647C) := by decide
theorem test_mul_first_fold :
    seen (exec (.mul (BitVec.twoPow 191 190) 2 0) State.reset) = some (false, true, 0, 0x201) := by
  decide

/-- Q11 and Q9. -/
theorem test_sqr_general :
    seen (exec (.sqr a1 b1 0) State.reset)
      = some (false, true, 0, 0x4453580F3423297E859299CEF5E2E8BF4453580F3423287F) := by decide
theorem test_sqr_top_bit :
    seen (exec (.sqr (BitVec.twoPow 191 190) 0 0) State.reset)
      = some (false, true, 0, 0x200000000000000000000000000000000000000000010080) := by decide

/-- I10 and I0. -/
theorem test_inv_general :
    seen (exec (.inv a1 c1 3) State.reset)
      = some (false, true, 0, 0x402BE42B8B9FD31C1A83B0833008886207D96ED9BE89D9FD) := by decide
theorem test_inv_zero : seen (exec (.inv 0 b1 5) State.reset) = some (false, true, 1, 0) := by
  decide

/-- W19 and W1. -/
theorem test_pow_general :
    seen (exec (.pow a1 c1 7) State.reset)
      = some (false, true, 0, 0x4235669B75AF08FE23804AE5C5BC8E624A8309D548676750) := by decide
theorem test_pow_zero_zero : seen (exec (.pow 0 b1 0) State.reset) = some (false, true, 0, 1) := by
  decide

/-- X1 to X3. -/
theorem test_rsv5 : seen (exec (.rsv5 0 0 0) State.reset) = some (false, true, 2, 0) := by decide
theorem test_rsv6 : seen (exec (.rsv6 a1 b1 7) State.reset) = some (false, true, 2, 0) := by
  decide
theorem test_rsv7 :
    seen (exec (.rsv7 (BitVec.allOnes 191) (BitVec.allOnes 191) (2 ^ 192 - 1)) State.reset)
      = some (false, true, 2, 0) := by decide

/-! ### Traces of the units -/

/-- M11 after the steps MI = 0, 1 and 2. -/
theorem test_multiplier_trace :
    repeatStep (mulStep 6) 3 (mulStart (BitVec.twoPow 191 190)) = ⟨0x603, 0x804, 3⟩ := by decide
/-- Q9 once position 380 is scanned: bits 380, 198 and 189. -/
theorem test_squarer_trace :
    repeatStep sqrStep 3 (sqrStart (BitVec.twoPow 191 190))
      = ⟨BitVec.twoPow 383 198 ||| BitVec.twoPow 383 189, 379⟩ := by decide
/-- I5 after its swap and its first exclusive-or step. -/
theorem test_inverter_trace :
    repeatStep invStep 2 (invStart 0x200) = ⟨0x201, 0x200, BitVec.twoPow 191 182, 1⟩ := by decide
/-- W13 after its second iteration. -/
theorem test_engine_trace : repeatStep powStep 2 (powStart 3 10) = ⟨5, 0x11, 2⟩ := by decide

/-! ### Single edges, from program P4 -/

/-- A core that shows ADD 1, 2's response, with these inputs to come: P4 after edge 4. -/
def showsThree (pins : List Pins) : State := { driven pins with done := true, c := 3, opa := 1, opb := 2 }

/-- Edge 5: INV 0 is accepted; C and ERR keep the old response. -/
theorem test_accepting_edge :
    seen (edge latTwo (showsThree [presentPins (.inv 0 0 0)])) = some (true, false, 0, 3) := by
  decide
/-- Edge 3: a command presented while busy does nothing. -/
theorem test_busy_edge :
    seen (edge latTwo ((driven [presentPins (.mul 3 6 0)]).latch 0 1 2 0 2)) = some (true, false, 0, 0) := by
  decide
/-- Edge 4: the response of ADD 1, 2. -/
theorem test_completing_edge :
    seen (edge latTwo ((driven []).latch 0 1 2 0 1)) = some (false, true, 0, 3) := by decide
/-- Edge 12: reset wins, though a command is in work and `start` is 1. -/
theorem test_reset_edge :
    seen (edge latTwo ({ driven [⟨true, true, 2, 3, 0, 0⟩] with err := 2 }.latch 2 3 0 0 2))
      = some (false, false, 0, 0) := by decide
/-- Edge 17: `start` is a level, so a held command is accepted again right after a response. -/
theorem test_held_start :
    seen (edge latTwo (showsThree [presentPins (.sqr 3 0 0)])) = some (true, false, 0, 3) := by
  decide

/-- The table's words run from reset: POW of zero to the zero is ONE, and code 6 is illegal. -/
theorem test_fetched_pow :
    seen (step (State.reset.withFetchWord 8 4)) = some (false, true, 0, 1) := by decide
theorem test_fetched_rsv6 :
    seen (step (State.reset.withFetchWord 8 6)) = some (false, true, 2, 0) := by decide
theorem test_fetched_decodes : decodeTableWord 8 4 = some (.pow 0 0 0) := by decide

/-! ### Text -/

/-- H2, H6 and H9. -/
theorem test_fromValue_drops_bit_191 : fromValue reductionPolynomial.toNat = 0x201 := by decide
theorem test_toHex : toHex 0xABC = List.replicate 45 '0' ++ ['A', 'B', 'C'] := by decide
theorem test_fromHex : fromHex (List.replicate 48 'F') = some (BitVec.allOnes 191) := by decide

/-- The line of S1, with a comment. -/
theorem test_assemble_mul :
    assemble 192 ['M', 'U', 'L', ' ', ' ', '0', 'x', '1', ',', ' ', '0', 'x', '2', ' ', '-', '-', 'S']
      = .ok (.mul 1 2 0) := by decide
theorem test_assemble_pow :
    assemble 192 ['P', 'O', 'W', ' ', 'O', 'N', 'E', ',', '1', '2', '3', '4', '5']
      = .ok (.pow 1 0 12345) := by decide
/-- A line of program P2. -/
theorem test_script_line :
    readScriptLine 192 ['l', ' ', '=', ' ', 'M', 'U', 'L', ' ', 's', ',', ' ', 's']
      = .ok (.bind ['l'] (.mul (.named ['s']) (.named ['s'])) false) := by decide

/-! ### Witnesses: for each statement with hypotheses, a state and operands that meet them all -/

/-- A core working on a MUL of 3 and 6, one edge and no step into it. -/
def inWork (op : OpCode) (lat : Nat) (pins : List Pins) : State :=
  (driven pins).takeCommand ⟨false, true, op, 3, 6, 10⟩ lat

/-- A reset edge with everything else asserted too. -/
def resetPins : Pins := ⟨true, true, 7, 1, 1, 1⟩

theorem witness_DecodeOfEncode : (Instr.pow 2 0 (2 ^ 192 - 1)).wellFormed 192 = true := by decide
theorem witness_EncodeOfDecode : decode 1 (2 ^ 385) = .ok (.add 0 0 1) := by decide
theorem witness_CommandWordLayout : (Instr.add a1 b1 1).wellFormed 1 = true := by decide
theorem witness_AddCompletes : 190 < 191 := by decide
theorem witness_InvOfNonzeroCompletes : (1 : Elem) ≠ zeroElem := by decide
theorem witness_ExecShowsTheCommandFunction : 5 ≤ (5#3 : OpCode).toNat ∧ 5 ≤ (7#3 : OpCode).toNat := by
  decide
theorem witness_UnreadFieldsDoNotMatter :
    (readsField 4#3 .a = true → a1 = a1) ∧ (readsField 4#3 .b = true → b1 = c1)
      ∧ (readsField 4#3 .n = true → 3 = 3) := by decide
theorem witness_ResetEdgeWins : (inWork 1 2 [resetPins]).nextPins.rst = true := by decide
theorem witness_AcceptingEdge :
    (driven [presentPins (.pow 2 0 (2 ^ 192 - 1))]).pins = presentPins (.pow 2 0 (2 ^ 192 - 1)) :: []
      ∧ (presentPins (.pow 2 0 (2 ^ 192 - 1))).rst = false
      ∧ (driven [presentPins (.pow 2 0 (2 ^ 192 - 1))]).busy = false
      ∧ (presentPins (.pow 2 0 (2 ^ 192 - 1))).start = true
      ∧ (presentPins (.pow 2 0 (2 ^ 192 - 1))).n < 2 ^ State.reset.expW := by decide
theorem witness_BusyCoreIgnoresItsInputs :
    (inWork 1 2 []).busy = true ∧ (presentPins (.mul 3 6 0)).rst = Pins.idle.rst := by decide
theorem witness_StepRunsTheLatchedCommand :
    (inWork 1 1 []).nextPins.rst = false ∧ (inWork 1 1 []).busy = true ∧ (inWork 1 1 []).edgesLeft ≤ 1 := by
  decide
theorem witness_FetchedWordRuns :
    State.reset.expW = 192 ∧ decodeTableWord 8 0xFB = some (.inv 31 0 0) := by decide
theorem witness_OtherEdgesChangeNothingVisible_idle :
    State.reset.nextPins.rst = false ∧ State.reset.busy = false ∧ State.reset.nextPins.start = false := by
  decide
theorem witness_OtherEdgesChangeNothingVisible_working :
    (inWork 0 2 []).nextPins.rst = false ∧ (inWork 0 2 []).busy = true ∧ 2 ≤ (inWork 0 2 []).edgesLeft
      ∧ (inWork 0 2 []).opc ≠ 1#3 ∧ (inWork 0 2 []).opc ≠ 2#3
      ∧ (inWork 0 2 []).opc ≠ 3#3 ∧ (inWork 0 2 []).opc ≠ 4#3 := by
  decide
theorem witness_EveryEdgeGivesANextState :
    (driven [presentPins (.pow 2 0 (2 ^ 192 - 1))]).nextPins.n < 2 ^ State.reset.expW := by decide
theorem witness_EveryEdgeGivesANextState_refused :
    edge latTwo (driven [presentPins (.pow 2 0 (2 ^ 192))]) = .refused .exponentTooWide := rfl
theorem witness_BusyRisesOnlyByStart :
    edge latTwo (driven [presentPins (.add 1 2 0)])
        = .next ((driven []).takeCommand (presentPins (.add 1 2 0)) 2)
      ∧ (driven [presentPins (.add 1 2 0)]).busy = false
      ∧ ((driven []).takeCommand (presentPins (.add 1 2 0)) 2).busy = true := ⟨rfl, rfl, rfl⟩
theorem witness_IdleCoreStaysIdle :
    (driven [Pins.idle]).busy = false
      ∧ ∀ p ∈ (driven [Pins.idle]).pins.take 2, p.rst = false ∧ p.start = false := by decide
theorem witness_CommandCutOffByResetNeverAnswers :
    (inWork 1 2 [resetPins, Pins.idle]).busy = true
      ∧ (inWork 1 2 [resetPins, Pins.idle]).pins = resetPins :: [Pins.idle] ∧ resetPins.rst = true
      ∧ ∀ q ∈ [Pins.idle].take 1, q.rst = false ∧ q.start = false := by decide
theorem witness_WorkingCoreAnswers :
    (inWork 1 3 [presentPins (.add 1 2 0)]).busy = true
      ∧ 1 ≤ (inWork 1 3 [presentPins (.add 1 2 0)]).edgesLeft
      ∧ ∀ q ∈ (inWork 1 3 [presentPins (.add 1 2 0)]).pins.take 3, q.rst = false := by decide
/-- Two inputs, the second held while the core works: P4's edges 15 to 17. -/
theorem witness_CommandAnswersAfterLatEdges :
    let p := presentPins (.sqr 3 0 0)
    (driven [p, p, p]).pins = p :: [p, p] ∧ p.rst = false ∧ (driven [p, p, p]).busy = false
      ∧ p.start = true ∧ p.n < 2 ^ (driven [p, p, p]).expW ∧ latTwo.lat p.op p.a p.b p.n = 2
      ∧ ∀ q ∈ [p, p].take 2, q.rst = false := by decide
theorem witness_IssuedCommandIsAnswered :
    (inWork 1 3 []).legal ∧ (Instr.pow 2 0 5).wellFormed (inWork 1 3 []).expW = true := by decide
theorem witness_StepKeepsLegal : State.reset.legal ∧ step State.reset = .next State.reset :=
  ⟨by decide, rfl⟩
theorem witness_StatusIsOneOfSeven : (inWork 1 2 []).legal ∧ State.reset.legal := by decide
/-- A core that shows a response which its latches owe. -/
theorem witness_StepKeepsAnswered :
    (showsThree []).answered ∧ (showsThree []).done = true ∧ step (showsThree []) = .next (showsThree []) :=
  ⟨by decide, rfl, rfl⟩
theorem witness_StepKeepsTracked :
    State.reset.tracked ∧ step State.reset = .next State.reset :=
  ⟨fun h => absurd h (by decide), rfl⟩
theorem witness_MultiplierEndsWithTheProduct :
    (inWork 1 2 []).tracked ∧ (inWork 1 2 []).busy = true ∧ (inWork 1 2 []).opc = 1#3 := by
  refine ⟨fun _ => ⟨fun _ => ⟨0, rfl⟩, ?_, ?_, ?_⟩, rfl, rfl⟩ <;> exact fun h => absurd h (by decide)
/-- The same core with its multiplier at MI = 191. -/
theorem witness_MultiplierEndsWithTheProduct_finished :
    ({ inWork 1 2 [] with mulRegs := mulFinish 3 6 } : State).tracked ∧ (mulFinish 3 6).mi = 191#8 := by
  refine ⟨fun _ => ⟨fun _ => ⟨191, rfl⟩, ?_, ?_, ?_⟩, by decide⟩ <;> exact fun h => absurd h (by decide)
theorem witness_SquarerEndsWithTheSquare :
    (inWork 2 2 []).tracked ∧ (inWork 2 2 []).busy = true ∧ (inWork 2 2 []).opc = 2#3 := by
  refine ⟨fun _ => ⟨?_, fun _ => ⟨0, rfl⟩, ?_, ?_⟩, rfl, rfl⟩ <;> exact fun h => absurd h (by decide)
theorem witness_SquarerEndsWithTheSquare_finished :
    ({ inWork 2 2 [] with sqrRegs := sqrFinish 3 } : State).tracked ∧ (sqrFinish 3).si = 190#9 := by
  refine ⟨fun _ => ⟨?_, fun _ => ⟨192, rfl⟩, ?_, ?_⟩, by decide⟩ <;> exact fun h => absurd h (by decide)
theorem witness_EngineEndsWithThePower :
    (inWork 4 2 []).tracked ∧ (inWork 4 2 []).busy = true ∧ (inWork 4 2 []).opc = 4#3 := by
  refine ⟨fun _ => ⟨?_, ?_, ?_, fun _ => ⟨0, rfl⟩⟩, rfl, rfl⟩ <;> exact fun h => absurd h (by decide)
theorem witness_EngineEndsWithThePower_finished :
    ({ inWork 4 2 [] with powRegs := powFinish 3 10 } : State).tracked ∧ (powFinish 3 10).pn = 0 := by
  refine ⟨fun _ => ⟨?_, ?_, ?_, fun _ => ⟨4, rfl⟩⟩, by decide⟩ <;> exact fun h => absurd h (by decide)
theorem witness_InverterEndsWithTheInverse :
    (inWork 3 2 []).tracked ∧ (inWork 3 2 []).busy = true ∧ (inWork 3 2 []).opc = 3#3
      ∧ (inWork 3 2 []).opa ≠ zeroElem := by
  refine ⟨fun _ => ⟨?_, ?_, fun _ _ => ⟨0, rfl⟩, ?_⟩, rfl, rfl, by decide⟩ <;> exact fun h => absurd h (by decide)
/-- The same core with its inverter at EA = 1, after the 183 steps the spec counts for I3. -/
theorem witness_InverterEndsWithTheInverse_finished :
    ({ inWork 3 2 [] with invRegs := repeatStep invStep 183 (invStart 3) } : State).tracked
      ∧ (repeatStep invStep 183 (invStart 3)).ea = 1#192 := by
  refine ⟨fun _ => ⟨?_, ?_, fun _ _ => ⟨183, rfl⟩, ?_⟩, by decide⟩ <;> exact fun h => absurd h (by decide)
theorem witness_TimesXBitByBit : (0 : Nat) < 191 ∧ 9 < 191 ∧ 190 < 191 := by decide
theorem witness_MultiplierLoopInvariant : (0 : Nat) ≤ 191 ∧ 191 ≤ 191 := by decide
theorem witness_MulHasNoZeroDivisors : fieldMul 0 a1 = zeroElem := by decide
theorem witness_SquarerScanClearsFromTheTop : (192 : Nat) ≤ 192 ∧ 383 - 192 ≤ 191 := by decide
theorem witness_SqrLaws : fieldSqr a1 = fieldSqr a1 ∧ fieldSqr 0 = zeroElem := by decide
theorem witness_SqrByTheTable : (0 : Nat) < 191 ∧ 96 < 191 ∧ 187 < 191 ∧ 190 < 191 := by decide
theorem witness_InverterBezoutRelations : (2 : Elem) ≠ zeroElem := by decide
/-- After its first swap the inverter on x has EA = R, so the next step is an exclusive-or step. -/
theorem witness_InverterNeverMeetsZeroAndMasksNothing :
    (2 : Elem) ≠ zeroElem ∧ (repeatStep invStep 1 (invStart 2)).ea ≠ 1#192
      ∧ degree (repeatStep invStep 1 (invStart 2)).eb ≤ degree (repeatStep invStep 1 (invStart 2)).ea := by
  decide
theorem witness_InverterEndsInBoundedSteps : (BitVec.allOnes 191 : Elem) ≠ zeroElem := by decide
theorem witness_InvLaws : (2 : Elem) ≠ zeroElem
    ∧ fieldMul 2 0x400000000000000000000000000000000000000000000100 = oneElem := by decide
theorem witness_PowZeroConventions : 1 ≤ 1 := by decide
theorem witness_EngineStepCount : (5 : Nat) < 2 ^ 3 := by decide
theorem witness_PowOfGroupOrder : (3 : Elem) ≠ zeroElem := by decide
theorem witness_ToHexDigits : (0 : Nat) < 48 ∧ 47 < 48 ∧ (0 : Nat) < 16 ∧ 15 < 16 := by decide
theorem witness_HexRoundTrips : fromHex ['a', 'b', 'c'] = some 0xABC
    ∧ 1 ≤ ['a', 'b', 'c'].length ∧ ['a', 'b', 'c'].length ≤ 48
    ∧ spell 16 hexValue 0 ['a', 'b', 'c'] = some 0xABC := by decide
theorem witness_AssembledLineFits :
    assemble 192 ['R', 'S', 'V', '5'] = .ok (.rsv5 0 0 0)
      ∧ readsField (Instr.rsv5 0 0 0).opCode .a = false
      ∧ readsField (Instr.rsv5 0 0 0).opCode .b = false
      ∧ readsField (Instr.rsv5 0 0 0).opCode .n = false := by decide

end Sys2Proof.Tests
end

section
/-! The command word and the command function: where the fields of a packed word lie (R50), the table of
operation codes (R52), and EXEC with what exec shows of it (R56). -/

namespace Sys2Proof

/-! ### The fields of a packed word -/

/-- CMD as nested digits, `op` the lowest. -/
theorem packWord_eq_nested (op : OpCode) (a b : Elem) (n : Nat) :
    packWord op a b n = op.toNat + 2 ^ 3 * (a.toNat + 2 ^ 191 * (b.toNat + 2 ^ 191 * n)) := by
  simp only [packWord, aLow, bLow, nLow, Nat.shiftLeft_eq]
  omega

theorem packWord_div_a (op : OpCode) (a b : Elem) (n : Nat) :
    packWord op a b n / 2 ^ 3 % 2 ^ 191 = a.toNat := by
  have hop := op.isLt
  have ha := a.isLt
  rw [packWord_eq_nested]
  omega

theorem packWord_div_b (op : OpCode) (a b : Elem) (n : Nat) :
    packWord op a b n / 2 ^ 194 % 2 ^ 191 = b.toNat := by
  have hop := op.isLt
  have ha := a.isLt
  have hb := b.isLt
  rw [packWord_eq_nested]
  omega

theorem packWord_div_n (op : OpCode) (a b : Elem) (n : Nat) :
    packWord op a b n / 2 ^ 385 = n := by
  have hop := op.isLt
  have ha := a.isLt
  have hb := b.isLt
  rw [packWord_eq_nested]
  omega

/-- A packed word has 385 bits beside those of its exponent. -/
theorem packWord_lt (op : OpCode) (a b : Elem) {n k : Nat} (hn : n < 2 ^ k) :
    packWord op a b n < 2 ^ (385 + k) := by
  have hdiv : packWord op a b n / 2 ^ 385 < 2 ^ k := (packWord_div_n op a b n).trans_lt hn
  calc packWord op a b n < 2 ^ k * 2 ^ 385 := Nat.lt_mul_of_div_lt hdiv (pow_pos two_pos 385)
    _ = 2 ^ (385 + k) := by rw [← pow_add, add_comm]

theorem Instr.wellFormed_iff (i : Instr) (expW : Nat) :
    i.wellFormed expW = true ↔ i.fieldN < 2 ^ expW := decide_eq_true_iff

end Sys2Proof

namespace Sys2Proof.Machine

/-! ### EXEC, one equation per operation code -/

section
variable (a b : Elem) (n : Nat)

@[simp] theorem commandResult_add : commandResult 0#3 a b n = .ok (fieldAdd a b) := rfl
@[simp] theorem commandResult_mul : commandResult 1#3 a b n = .ok (fieldMul a b) := rfl
@[simp] theorem commandResult_sqr : commandResult 2#3 a b n = .ok (fieldSqr a) := rfl
@[simp] theorem commandResult_inv : commandResult 3#3 a b n = fieldInv a := rfl
@[simp] theorem commandResult_pow : commandResult 4#3 a b n = .ok (fieldPow a n) := rfl

theorem commandResult_reserved {op : OpCode} (h : 5 ≤ op.toNat) :
    commandResult op a b n = .err .illegalOp := by
  have hne : ∀ code : OpCode, code.toNat < 5 → op ≠ code := by
    rintro code hcode rfl
    omega
  simp [commandResult, hne]

end

/-! ### What a responding state shows -/

theorem respond_shows (s : State) (res : Result) : (s.respond res).shows res := ⟨rfl, rfl, rfl, rfl⟩

/-- The host reads back exactly the Result the registers show (R157, R158). -/
theorem response_of_shows {s : State} {res : Result} (h : s.shows res) : s.response = some res := by
  obtain ⟨-, hdone, herr, hc⟩ := h
  cases res with
  | ok c =>
    simp [State.response, State.outputs, Outputs.response, hdone, herr, hc, Result.errBits, Result.data]
  | err code =>
    cases code <;>
      simp [State.response, State.outputs, Outputs.response, hdone, herr, Result.errBits, ErrCode.bits]

@[simp] theorem respond_response (s : State) (res : Result) : (s.respond res).response = some res :=
  response_of_shows (respond_shows s res)

/-! ### The obligations -/

/-- Settles O3: each field of the packed word read back by division, and the bound from the exponent's. -/
theorem commandWordLayout : Obligations.CommandWordLayout := by
  intro expW i hi
  have hn : i.fieldN < 2 ^ expW := (i.wellFormed_iff expW).mp hi
  refine ⟨packWord_lt _ _ _ hn, Laws.EncodedOp.packWord_mod _ _ _ _, packWord_div_a _ _ _ _,
    packWord_div_b _ _ _ _, ?_⟩
  rw [encode, packWord_div_n, Nat.mod_eq_of_lt hn]

/-- Settles O4: the decoder's table row by row. -/
theorem operationCodes : Obligations.OperationCodes := fun _ _ _ =>
  ⟨rfl, rfl, rfl, rfl, rfl, rfl, rfl, rfl⟩

/-- Settles O14: EXEC's equations, and `exec_cases`, by which a command only responds with EXEC of its
fields and moves hidden registers. -/
theorem execShowsTheCommandFunction : Obligations.ExecShowsTheCommandFunction := by
  refine ⟨fun a b n => ?_, fun i s => ?_⟩
  · exact ⟨commandResult_add a b n, commandResult_mul a b n, commandResult_sqr a b n,
      commandResult_inv a b n, commandResult_pow a b n, fun _ => commandResult_reserved a b n⟩
  · obtain ⟨m, q, v, p, hexec, -⟩ := exec_cases i s
    exact ⟨_, hexec, respond_shows _ _, respond_response _ _, ⟨rfl, rfl, rfl, rfl⟩, rfl, rfl, rfl⟩

end Sys2Proof.Machine
end

section
/-! The text form of an element: the digits TO_HEX writes (R75), the numbers that digits spell, and the two
round trips with FROM_HEX (R76). -/

namespace Sys2Proof.Machine

/-! ### One hex digit -/

theorem hexChar_getElem? : ∀ d, d < 16 → some (hexChar d)
    = ['0', '1', '2', '3', '4', '5', '6', '7', '8', '9', 'A', 'B', 'C', 'D', 'E', 'F'][d]? := by
  decide

theorem hexValue_hexChar : ∀ d < 16, hexValue (hexChar d) = some d := by decide

theorem hexChar_toNat_le : ∀ d < 16, (hexChar d).toNat ≤ 70 := by decide

theorem hexChar_toNat_le_of_le_seven : ∀ d < 8, (hexChar d).toNat ≤ 55 := by decide

/-- The three ranges of R76, as the value and the code of a digit. -/
theorem hexValue_cases {ch : Char} {d : Nat} (h : hexValue ch = some d) :
    (d < 10 ∧ ch.toNat = 48 + d) ∨ (10 ≤ d ∧ d < 16 ∧ ch.toNat = 55 + d)
      ∨ (10 ≤ d ∧ d < 16 ∧ ch.toNat = 87 + d) := by
  simp only [hexValue] at h
  split_ifs at h <;> simp only [Option.some.injEq] at h <;> omega

theorem hexValue_lt {ch : Char} {d : Nat} (h : hexValue ch = some d) : d < 16 := by
  have := hexValue_cases h
  omega

/-- An upper-case digit is the one TO_HEX writes for its value. -/
theorem hexChar_of_hexValue {ch : Char} {d : Nat} (h : hexValue ch = some d) (hup : ch.toNat ≤ 70) :
    hexChar d = ch := by
  obtain ⟨hd, hch⟩ | ⟨hd, -, hch⟩ | ⟨hd, -, hch⟩ := hexValue_cases h
  · rw [hexChar, if_pos hd, ← hch, Char.ofNat_toNat]
  · rw [hexChar, if_neg (by omega), ← hch, Char.ofNat_toNat]
  · omega

/-! ### The digits of a number -/

theorem hexLow_succ (v k : Nat) :
    hexLow v (k + 1) = hexChar (v / 16 ^ k % 16) :: hexLow v k := rfl

@[simp] theorem hexLow_length (v k : Nat) : (hexLow v k).length = k := by
  induction k with
  | zero => rfl
  | succ k ih => simp [hexLow_succ, ih]

theorem hexLow_getElem? (v : Nat) {k n : Nat} (hk : k < n) :
    (hexLow v n)[n - 1 - k]? = some (hexChar (v / 16 ^ k % 16)) := by
  induction n with
  | zero => omega
  | succ n ih =>
    obtain rfl | hlt : k = n ∨ k < n := by omega
    · simp [hexLow_succ]
    · have hpos : n + 1 - 1 - k = (n - 1 - k) + 1 := by omega
      rw [hpos, hexLow_succ, List.getElem?_cons_succ, ih hlt]

theorem exists_hexChar_of_mem_hexLow {v k : Nat} {ch : Char} (h : ch ∈ hexLow v k) :
    ∃ d < 16, ch = hexChar d := by
  induction k with
  | zero => exact absurd h List.not_mem_nil
  | succ k ih =>
    rw [hexLow_succ, List.mem_cons] at h
    exact h.elim (fun heq => ⟨_, Nat.mod_lt _ (by decide), heq⟩) ih

/-! ### The number that digits spell -/

theorem spell_cons_eq_some {base acc v : Nat} {digit : Char → Option Nat} {ch : Char} {rest : List Char} :
    spell base digit acc (ch :: rest) = some v
      ↔ ∃ d, digit ch = some d ∧ spell base digit (base * acc + d) rest = some v := by
  cases h : digit ch <;> simp [spell, h]

theorem spell_hexLow (v k acc : Nat) :
    spell 16 hexValue acc (hexLow v k) = some (16 ^ k * acc + v % 16 ^ k) := by
  induction k generalizing acc with
  | zero => simp [hexLow, spell, Nat.mod_one]
  | succ k ih =>
    have hd : v / 16 ^ k % 16 < 16 := Nat.mod_lt _ (by decide)
    refine spell_cons_eq_some.mpr ⟨_, hexValue_hexChar _ hd, (ih _).trans ?_⟩
    rw [Nat.mod_pow_succ]
    ring_nf

/-- The digits after `acc` take the places below it. -/
theorem spell_div {text : List Char} {acc v : Nat} (h : spell 16 hexValue acc text = some v) :
    v / 16 ^ text.length = acc := by
  induction text generalizing acc with
  | nil => simpa [spell] using h.symm
  | cons ch rest ih =>
    obtain ⟨d, hd, hrest⟩ := spell_cons_eq_some.mp h
    have hlt := hexValue_lt hd
    rw [List.length_cons, pow_succ, ← Nat.div_div_eq_div_mul, ih hrest]
    omega

/-- Upper-case digits are the digits TO_HEX writes for the number they spell. -/
theorem hexLow_of_spell {text : List Char} {acc v : Nat} (h : spell 16 hexValue acc text = some v)
    (hup : ∀ ch ∈ text, ch.toNat ≤ 70) : hexLow v text.length = text := by
  induction text generalizing acc with
  | nil => rfl
  | cons ch rest ih =>
    obtain ⟨d, hd, hrest⟩ := spell_cons_eq_some.mp h
    obtain ⟨hch, hupRest⟩ := List.forall_mem_cons.mp hup
    have hlt := hexValue_lt hd
    have hdigit : v / 16 ^ rest.length % 16 = d := by
      rw [spell_div hrest]
      omega
    rw [List.length_cons, hexLow_succ, hdigit, hexChar_of_hexValue hd hch, ih hrest hupRest]

/-! ### TO_HEX, FROM_HEX and the canonical strings -/

@[simp] theorem fromValue_toNat (v : Nat) : (fromValue v).toNat = v % 2 ^ 191 := BitVec.toNat_ofNat v 191

@[simp] theorem fromValue_of_toNat (e : Elem) : fromValue e.toNat = e := BitVec.ofNat_toNat 191 e

@[simp] theorem toHex_length (e : Elem) : (toHex e).length = 48 := hexLow_length e.toNat 48

theorem toHex_head? (e : Elem) : ∃ d < 8, (toHex e).head? = some (hexChar d) :=
  ⟨e.toNat / 16 ^ 47 % 16, by have := e.isLt; omega, rfl⟩

theorem spell_toHex (e : Elem) : spell 16 hexValue 0 (toHex e) = some e.toNat := by
  have hlt : e.toNat < 16 ^ 48 := e.isLt.trans (by decide)
  rw [toHex, spell_hexLow, Nat.mod_eq_of_lt hlt, mul_zero, zero_add]

theorem fromHex_eq_some {text : List Char} {e : Elem} :
    fromHex text = some e
      ↔ (1 ≤ text.length ∧ text.length ≤ 48) ∧ ∃ v, spell 16 hexValue 0 text = some v ∧ fromValue v = e := by
  rw [fromHex, Option.ite_none_right_eq_some, Option.map_eq_some_iff]

theorem fromHex_toHex (e : Elem) : fromHex (toHex e) = some e :=
  fromHex_eq_some.mpr ⟨by simp, e.toNat, spell_toHex e, fromValue_of_toNat e⟩

theorem isCanonicalHex_iff (text : List Char) :
    isCanonicalHex text = true
      ↔ text.length = 48 ∧ (∀ ch ∈ text, (hexValue ch).isSome = true ∧ ch.toNat ≤ 70)
        ∧ ∃ ch, text.head? = some ch ∧ ch.toNat ≤ 55 := by
  cases text <;> simp [isCanonicalHex, and_assoc]

theorem isCanonicalHex_toHex (e : Elem) : isCanonicalHex (toHex e) = true := by
  refine (isCanonicalHex_iff _).mpr ⟨toHex_length e, fun ch hch => ?_, ?_⟩
  · obtain ⟨d, hd, rfl⟩ := exists_hexChar_of_mem_hexLow hch
    exact ⟨by simp [hexValue_hexChar d hd], hexChar_toNat_le d hd⟩
  · obtain ⟨d, hd, hhead⟩ := toHex_head? e
    exact ⟨_, hhead, hexChar_toNat_le_of_le_seven d hd⟩

/-- A first digit below 8 leaves bit 191 of the number clear, so that FROM_VALUE drops nothing. -/
theorem spell_lt_of_isCanonicalHex {text : List Char} {v : Nat} (hcanon : isCanonicalHex text = true)
    (h : spell 16 hexValue 0 text = some v) : v < 2 ^ 191 := by
  obtain ⟨hlen, -, ch, hhead, hch⟩ := (isCanonicalHex_iff text).mp hcanon
  obtain ⟨rest, rfl⟩ := List.head?_eq_some_iff.mp hhead
  obtain ⟨d, hd, hrest⟩ := spell_cons_eq_some.mp h
  have hd7 : d ≤ 7 := by
    have := hexValue_cases hd
    omega
  have hdiv : v / 16 ^ 47 = 16 * 0 + d := by
    rw [← spell_div hrest, Nat.succ.inj hlen]
  omega

theorem toHex_fromValue_of_isCanonicalHex {text : List Char} {v : Nat} (hcanon : isCanonicalHex text = true)
    (h : spell 16 hexValue 0 text = some v) : toHex (fromValue v) = text := by
  have hlt := spell_lt_of_isCanonicalHex hcanon h
  obtain ⟨hlen, hdigits, -⟩ := (isCanonicalHex_iff text).mp hcanon
  rw [toHex, fromValue_toNat, Nat.mod_eq_of_lt hlt, ← hlen]
  exact hexLow_of_spell h fun ch hch => (hdigits ch hch).2

theorem toHex_fromValue_eq_iff {text : List Char} {v : Nat} (h : spell 16 hexValue 0 text = some v) :
    toHex (fromValue v) = text ↔ isCanonicalHex text = true :=
  ⟨fun heq => heq ▸ isCanonicalHex_toHex _, fun hcanon => toHex_fromValue_of_isCanonicalHex hcanon h⟩

/-! ### The obligations -/

/-- Settles O57: the digits of `hexLow` by position, and the bound on an element for the first of them. -/
theorem toHexDigits : Obligations.ToHexDigits := by
  intro e
  obtain ⟨d, hd, hhead⟩ := toHex_head? e
  exact ⟨toHex_length e, fun _ hk => hexLow_getElem? e.toNat hk, hexChar_getElem?, d, by omega, hhead⟩

/-- Settles O58: digits and numbers determine each other, and a canonical string spells less than 2^191. -/
theorem hexRoundTrips : Obligations.HexRoundTrips := by
  refine ⟨fromHex_toHex, fun text v hpos hlen hv => ?_, fun text e he => ?_⟩
  · exact fromHex_eq_some.mpr ⟨⟨hpos, hlen⟩, v, hv, rfl⟩
  · obtain ⟨⟨hpos, hlen⟩, v, hv, rfl⟩ := fromHex_eq_some.mp he
    exact ⟨hpos, hlen, ⟨v, hv, fromValue_toNat v⟩, toHex_fromValue_eq_iff hv⟩

end Sys2Proof.Machine
end

section
/-! ADD as the field's addition: the laws of R81, carried over from exclusive or on words by the definition
of R80. -/

namespace Sys2Proof.Machine

section
variable (a b c : Elem)

theorem fieldAdd_comm : fieldAdd a b = fieldAdd b a := BitVec.xor_comm a b

theorem fieldAdd_assoc : fieldAdd (fieldAdd a b) c = fieldAdd a (fieldAdd b c) := BitVec.xor_assoc a b c

@[simp] theorem fieldAdd_zeroElem : fieldAdd a zeroElem = a := BitVec.xor_zero

/-- Every element is its own additive inverse, so ADD also subtracts (R82). -/
@[simp] theorem fieldAdd_self : fieldAdd a a = zeroElem := BitVec.xor_self

end

/-! ### The obligation -/

/-- Settles O40: the four laws, each from the law of exclusive or of the same name. -/
theorem addLaws : Obligations.AddLaws := fun a b c =>
  ⟨fieldAdd_comm a b, fieldAdd_assoc a b c, fieldAdd_zeroElem a, fieldAdd_self a⟩

end Sys2Proof.Machine
end

section
/-! Which commands are answered with an error (R131 to R133): what ERR and C say about the Result that was
written to them, and the exact commands at which EXEC is each of the two error codes. -/

namespace Sys2Proof.Machine

/-! ### ERR and C of a Result -/

section
variable (res : Result)

/-- The fourth value of ERR is the code of no Result. -/
theorem Result.errBits_ne_three : res.errBits ≠ 3#2 := by
  rcases res with c | (_ | _) <;> simp [Result.errBits, ErrCode.bits]

theorem Result.errBits_eq_one_iff : res.errBits = 1#2 ↔ res = .err .divByZero := by
  rcases res with c | (_ | _) <;> simp [Result.errBits, ErrCode.bits]

theorem Result.errBits_eq_two_iff : res.errBits = 2#2 ↔ res = .err .illegalOp := by
  rcases res with c | (_ | _) <;> simp [Result.errBits, ErrCode.bits]

theorem Result.data_of_errBits_ne_zero (h : res.errBits ≠ 0#2) : res.data = zeroElem := by
  cases res with
  | ok c => exact absurd rfl h
  | err code => rfl

end

/-! ### The two error codes of EXEC -/

section
variable (op : OpCode) (a b : Elem) (n : Nat)

theorem fieldInv_eq_divByZero_iff : fieldInv a = .err .divByZero ↔ a = zeroElem := by
  simp [fieldInv]

theorem fieldInv_ne_illegalOp : fieldInv a ≠ .err .illegalOp := by
  unfold fieldInv
  split <;> simp

/-- The codes without an operation answer ILLEGAL_OP, and no code with an operation does (R133). -/
theorem commandResult_eq_illegalOp_iff :
    commandResult op a b n = .err .illegalOp ↔ op = 5#3 ∨ op = 6#3 ∨ op = 7#3 := by
  obtain rfl | rfl | rfl | rfl | rfl | hres := opCode_cases op
  · simp
  · simp
  · simp
  · simp [fieldInv_ne_illegalOp]
  · simp
  · have hfive : 5 ≤ op.toNat := by rcases hres with rfl | rfl | rfl <;> decide
    exact iff_of_true (commandResult_reserved a b n hfive) hres

/-- Only INV can answer DIV_BY_ZERO, and it does at zero alone (R132). -/
theorem commandResult_eq_divByZero_iff :
    commandResult op a b n = .err .divByZero ↔ op = 3#3 ∧ a = zeroElem := by
  obtain rfl | rfl | rfl | rfl | rfl | hres := opCode_cases op
  · simp
  · simp
  · simp
  · simp [fieldInv_eq_divByZero_iff]
  · simp
  · have hill : commandResult op a b n = .err .illegalOp :=
      (commandResult_eq_illegalOp_iff op a b n).mpr hres
    have hinv : op ≠ 3#3 := by rcases hres with rfl | rfl | rfl <;> decide
    simp [hill, hinv]

end

/-! ### The obligation -/

/-- Settles O13: by `exec_cases` the command shows EXEC of its fields, whose ERR names the error code and
whose error codes have the causes above. -/
theorem errorCodesAndTheirCauses : Obligations.ErrorCodesAndTheirCauses := by
  intro i s
  obtain ⟨m, q, v, p, hexec, -⟩ := exec_cases i s
  refine ⟨_, hexec, rfl, rfl, Result.errBits_ne_three _, ?_, ?_, Result.data_of_errBits_ne_zero _⟩
  · exact (Result.errBits_eq_one_iff _).trans (commandResult_eq_divByZero_iff _ _ _ _)
  · exact (Result.errBits_eq_two_iff _).trans (commandResult_eq_illegalOp_iff _ _ _ _)

end Sys2Proof.Machine
end

section
/-! The edge function read forwards, one equation per case of R154, and a command's whole way through it: a
reset edge (R150), and the accepting edge, the working edges and the completing edge of R155, R157 and R159. -/

namespace Sys2Proof.Machine

/-! ### One edge -/

section
variable {t : Timing} {s : State}

theorem edge_of_reset (hrst : s.nextPins.rst = true) : edge t s = .next s.advancePins.resetEdge := by
  simp [edge, hrst]

theorem edge_of_accepting (hrst : s.nextPins.rst = false) (hbusy : s.busy = false)
    (hstart : s.nextPins.start = true) (hn : s.nextPins.n < 2 ^ s.expW) :
    edge t s = .next (s.advancePins.takeCommand s.nextPins
      (t.lat s.nextPins.op s.nextPins.a s.nextPins.b s.nextPins.n)) := by
  have hfits : exponentFits s.expW s.nextPins.n = true := decide_eq_true hn
  simp [edge, acceptEdge, hrst, hbusy, hstart, hfits]

theorem edge_of_working (hrst : s.nextPins.rst = false) (hbusy : s.busy = true)
    (hleft : 2 ≤ s.edgesLeft) : edge t s = .next (s.advancePins.workEdge t) := by
  have hnot : ¬ s.edgesLeft ≤ 1 := by omega
  simp [edge, hrst, hbusy, hnot]

theorem edge_of_completing (hrst : s.nextPins.rst = false) (hbusy : s.busy = true)
    (hleft : s.edgesLeft ≤ 1) : edge t s = exec s.latched s.advancePins := by
  simp [edge, hrst, hbusy, hleft]

/-- The completing edge answers the command in the latches, and keeps them (R157). -/
theorem edge_of_completing_shows (t : Timing) (hrst : s.nextPins.rst = false) (hbusy : s.busy = true)
    (hleft : s.edgesLeft ≤ 1) :
    ∃ s', edge t s = .next s' ∧ s'.shows s.owedResult ∧ State.sameLatches s s' := by
  obtain ⟨m, q, v, p, hexec, -⟩ := exec_cases s.latched s.advancePins
  have hres : commandResult s.latched.opCode s.latched.fieldA s.latched.fieldB s.latched.fieldN
      = s.owedResult := by simp [State.latched, State.owedResult]
  rw [hres] at hexec
  exact ⟨_, (edge_of_completing hrst hbusy hleft).trans hexec, respond_shows _ _, rfl, rfl, rfl, rfl⟩

end

/-! ### The inputs of several edges -/

section
variable {s : State} {k : Nat}

/-- With no reset among the next inputs there is none at the coming edge; past the list the host drives
idle inputs. -/
theorem nextPins_rst_of_take (h : ∀ q ∈ s.pins.take (k + 1), q.rst = false) :
    s.nextPins.rst = false := by
  cases hpins : s.pins with
  | nil => rw [nextPins_of_no_pins hpins]; rfl
  | cons p later => rw [nextPins_of_pins hpins]; exact h p (by simp [hpins])

theorem tail_take_rst_of_take (h : ∀ q ∈ s.pins.take (k + 1), q.rst = false) :
    ∀ q ∈ s.pins.tail.take k, q.rst = false := by
  cases hpins : s.pins with
  | nil => simp
  | cons p later => exact fun q hq => h q (by simp [hpins, show q ∈ later.take k from hq])

end

/-! ### Runs of edges -/

section
variable {t : Timing} {s s' : State}

theorem edges_succ_of_edge (k : Nat) (h : edge t s = .next s') :
    edges t (k + 1) s = edges t k s' := by
  simp [edges, h]

/-- `j` working edges have taken `s` to `s'`: they changed nothing visible and no latch (R159), and
counted down. -/
structure State.WorkedTo (s : State) (j : Nat) (s' : State) : Prop where
  visible : State.sameVisible s s'
  latches : State.sameLatches s s'
  edgesLeft : s'.edgesLeft + j = s.edgesLeft
  pins : s'.pins = s.pins.drop j

theorem State.WorkedTo.refl (s : State) : s.WorkedTo 0 s :=
  ⟨⟨rfl, rfl, rfl, rfl⟩, ⟨rfl, rfl, rfl, rfl⟩, rfl, rfl⟩

theorem State.WorkedTo.of_workEdge {j : Nat} (hleft : 1 ≤ s.edgesLeft)
    (h : (s.advancePins.workEdge t).WorkedTo j s') : s.WorkedTo (j + 1) s' := by
  have hcount := h.edgesLeft
  rw [State.workEdge_edgesLeft, State.advancePins_edgesLeft] at hcount
  exact ⟨h.visible, h.latches, by omega, h.pins.trans List.drop_tail⟩

theorem State.WorkedTo.owedResult_eq {j : Nat} (h : s.WorkedTo j s') :
    s'.owedResult = s.owedResult := by
  obtain ⟨hop, ha, hb, hn⟩ := h.latches
  simp only [State.owedResult, hop, ha, hb, hn]

/-- Before the completing edge every edge without reset is a working edge. -/
theorem edges_of_working (t : Timing) (j : Nat) (s : State) (hbusy : s.busy = true)
    (hj : j < s.edgesLeft) (hrst : ∀ q ∈ s.pins.take j, q.rst = false) :
    ∃ s', (∀ k, edges t (j + k) s = edges t k s') ∧ s.WorkedTo j s' := by
  induction j generalizing s with
  | zero => exact ⟨s, fun k => by rw [Nat.zero_add], .refl s⟩
  | succ j ih =>
    have hedge : edge t s = .next (s.advancePins.workEdge t) :=
      edge_of_working (nextPins_rst_of_take hrst) hbusy (by omega)
    obtain ⟨s', hrun, hworked⟩ := ih (s.advancePins.workEdge t) hbusy
      (by rw [State.workEdge_edgesLeft, State.advancePins_edgesLeft]; omega)
      (tail_take_rst_of_take hrst)
    refine ⟨s', fun k => ?_, hworked.of_workEdge (by omega)⟩
    rw [Nat.succ_add, edges_succ_of_edge _ hedge, hrun]

/-- A core with `k + 1` edges left works for `k` of them and answers at the last (R157). -/
theorem edges_of_busy_shows (t : Timing) (k : Nat) (s : State) (hbusy : s.busy = true)
    (hleft : s.edgesLeft = k + 1) (hrst : ∀ q ∈ s.pins.take (k + 1), q.rst = false) :
    ∃ s', edges t (k + 1) s = .next s' ∧ s'.shows s.owedResult ∧ State.sameLatches s s' := by
  obtain ⟨s₁, hrun, hworked⟩ := edges_of_working t k s hbusy (by omega) fun q hq =>
    hrst q (List.take_subset_take_left _ (Nat.le_succ k) hq)
  have hnext : s₁.nextPins.rst = false := nextPins_rst_of_take (k := 0) fun q hq =>
    hrst q (List.mem_of_mem_drop (i := k)
      (by rwa [List.drop_take, Nat.add_sub_cancel_left, ← hworked.pins]))
  have hlast : s₁.edgesLeft ≤ 1 := by
    have := hworked.edgesLeft
    omega
  obtain ⟨hbusy₁, -⟩ := hworked.visible
  obtain ⟨s', hedge, hshows, hop, ha, hb, hn⟩ :=
    edge_of_completing_shows t hnext (hbusy₁.trans hbusy) hlast
  obtain ⟨hop₁, ha₁, hb₁, hn₁⟩ := hworked.latches
  exact ⟨s', (hrun 1).trans (edges_succ_of_edge 0 hedge), hworked.owedResult_eq ▸ hshows,
    hop.trans hop₁, ha.trans ha₁, hb.trans hb₁, hn.trans hn₁⟩

theorem edges_succ_of_accepting {p : Pins} {later : List Pins} (k : Nat) (hpins : s.pins = p :: later)
    (hrst : p.rst = false) (hbusy : s.busy = false) (hstart : p.start = true)
    (hn : p.n < 2 ^ s.expW) :
    edges t (k + 1) s = edges t k (s.advancePins.takeCommand p (t.lat p.op p.a p.b p.n)) := by
  obtain rfl : s.nextPins = p := nextPins_of_pins hpins
  exact edges_succ_of_edge k (edge_of_accepting hrst hbusy hstart hn)

end

/-! ### The obligations -/

/-- Settles O17: a reset comes first in R154, so the edge is a reset edge in every state. -/
theorem resetEdgeWins : Obligations.ResetEdgeWins := fun _ _ hrst =>
  ⟨_, edge_of_reset hrst, rfl, rfl, rfl, rfl⟩

/-- Settles O29: the accepting edge leaves LAT edges; all but the last of them are working edges, and the
last answers the command that was latched. -/
theorem commandAnswersAfterLatEdges : Obligations.CommandAnswersAfterLatEdges := by
  intro t s p later hpins hrst hbusy hstart hn hlater
  have haccept := fun k => edges_succ_of_accepting (t := t) k hpins hrst hbusy hstart hn
  have htail : s.pins.tail = later := by rw [hpins, List.tail_cons]
  rw [← htail] at hlater
  refine ⟨Nat.le_add_left 1 _, fun j hpos hj => ?_, ?_⟩
  · obtain ⟨i, rfl⟩ : ∃ i, j = i + 1 := ⟨j - 1, by omega⟩
    obtain ⟨s', hrun, hworked⟩ := edges_of_working t i
      (s.advancePins.takeCommand p (t.lat p.op p.a p.b p.n)) rfl hj fun q hq =>
        hlater q (List.take_subset_take_left _ (Nat.le_of_succ_le hj) hq)
    obtain ⟨hbusy', hdone', herr', hc'⟩ := hworked.visible
    exact ⟨s', (haccept i).trans (hrun 0), hbusy', hdone', hc', herr'⟩
  · rw [haccept]
    exact edges_of_busy_shows t _ _ rfl rfl hlater

end Sys2Proof.Machine
end

section
/-! The decoder and the encoder undo each other (R50, R52): the fields of a packed word are the fields it was
packed from, and every word below 2^(385 + EXP_W) is packed from its own fields. -/

set_option exponentiation.threshold 600

namespace Sys2Proof

/-! ### A word's fields -/

section
variable (op : OpCode) (a b : Elem) (n : Nat)

@[simp] theorem wordOp_packWord : wordOp (packWord op a b n) = op := by
  apply BitVec.eq_of_toNat_eq
  rw [wordOp, BitVec.toNat_ofNat, Laws.EncodedOp.packWord_mod]

@[simp] theorem wordA_packWord : wordA (packWord op a b n) = a := by
  apply BitVec.eq_of_toNat_eq
  rw [wordA, aLow, BitVec.toNat_ofNat, Nat.shiftRight_eq_div_pow, packWord_div_a]

@[simp] theorem wordB_packWord : wordB (packWord op a b n) = b := by
  apply BitVec.eq_of_toNat_eq
  rw [wordB, bLow, BitVec.toNat_ofNat, Nat.shiftRight_eq_div_pow, packWord_div_b]

@[simp] theorem wordN_packWord : wordN (packWord op a b n) = n := by
  rw [wordN, nLow, Nat.shiftRight_eq_div_pow, packWord_div_n]

end

/-- The four fields cover the word: packing them again gives it back. -/
theorem packWord_of_fields (w : Nat) : packWord (wordOp w) (wordA w) (wordB w) (wordN w) = w := by
  rw [packWord_eq_nested]
  simp only [wordOp, wordA, wordB, wordN, aLow, bLow, nLow, BitVec.toNat_ofNat, Nat.shiftRight_eq_div_pow]
  omega

theorem encode_decodeFields (op : OpCode) (a b : Elem) (n : Nat) :
    encode (decodeFields op a b n) = packWord op a b n := by
  simp [encode]

theorem wordN_lt {w expW : Nat} (hw : w < 2 ^ (385 + expW)) : wordN w < 2 ^ expW := by
  rw [wordN, nLow, Nat.shiftRight_eq_div_pow]
  exact Nat.div_lt_of_lt_mul (pow_add 2 385 expW ▸ hw)

/-! ### decode -/

/-- The decoder's test is a bound on the word (R50). -/
theorem shiftRight_commandWidth_eq_zero (expW w : Nat) :
    w >>> commandWidth expW = 0 ↔ w < 2 ^ (385 + expW) := by
  rw [Nat.shiftRight_eq_div_pow, Nat.div_eq_zero_iff_lt (pow_pos two_pos _), commandWidth, nLow]

theorem decode_of_lt {expW w : Nat} (hw : w < 2 ^ (385 + expW)) :
    decode expW w = .ok (decodeFields (wordOp w) (wordA w) (wordB w) (wordN w)) :=
  if_pos ((shiftRight_commandWidth_eq_zero expW w).mpr hw)

theorem decode_of_le {expW w : Nat} (hw : 2 ^ (385 + expW) ≤ w) :
    decode expW w = .error .wordTooWide :=
  if_neg fun h => absurd ((shiftRight_commandWidth_eq_zero expW w).mp h) hw.not_gt

theorem decode_encode {expW : Nat} {i : Instr} (hi : i.wellFormed expW = true) :
    decode expW (encode i) = .ok i := by
  rw [encode, decode_of_lt (packWord_lt _ _ _ ((i.wellFormed_iff expW).mp hi))]
  simp

/-! ### The obligations -/

/-- Settles O1: the word of a command that fits is short enough, and its fields read back. -/
theorem decodeOfEncode : Obligations.DecodeOfEncode := fun _ _ => decode_encode

/-- Settles O2: a word is either short enough, and then packed from the fields the decoder reads, or refused. -/
theorem encodeOfDecode : Obligations.EncodeOfDecode := by
  intro expW w
  obtain hw | hw := Nat.lt_or_ge w (2 ^ (385 + expW))
  · rw [decode_of_lt hw]
    refine ⟨?_, by simp, fun hle => absurd hw hle.not_gt⟩
    rintro i ⟨⟩
    exact ⟨(encode_decodeFields _ _ _ _).trans (packWord_of_fields w),
      (Instr.wellFormed_iff _ _).mpr (by simpa using wordN_lt hw)⟩
  · rw [decode_of_le hw]
    exact ⟨fun i hi => by simp at hi, fun _ => hw, fun _ => rfl⟩

set_option maxRecDepth 100000 in
/-- Settles O5: the six words are closed, so the decoder runs on them. -/
theorem wordsOfTheSpecDecode : Obligations.WordsOfTheSpecDecode := by
  unfold Obligations.WordsOfTheSpecDecode
  decide

end Sys2Proof
end

section
/-! The three invariants at every step: the legal states, the response owed and the unit on its way. What an
edge can do is `edge_cases`; what a command can do is `exec_cases`. -/

namespace Sys2Proof.Machine

/-! ### What a completing edge leaves -/

/-- The completing edge answers with EXEC of the latches, keeps them and EXP_W, and besides the response
changes only the registers of its own unit; the engine's PN, where it moves, is at the end of its loop. -/
theorem completed_of_exec {s s' : State} (h : exec s.latched s.advancePins = .next s') :
    s'.shows s.owedResult ∧ State.sameLatches s s' ∧ s'.expW = s.expW ∧ s'.edgesLeft = 0
      ∧ (s'.powRegs = s.powRegs ∨ s'.powRegs = powFinish s.opa s.opn) := by
  obtain ⟨m, q, v, p, hexec, -, -, -, hp⟩ := exec_cases s.latched s.advancePins
  obtain rfl := Host.Outcome.next.inj (hexec.symm.trans h)
  have hres : commandResult s.latched.opCode s.latched.fieldA s.latched.fieldB s.latched.fieldN
      = s.owedResult := by simp [State.latched, State.owedResult]
  rw [hres]
  refine ⟨respond_shows _ _, ⟨rfl, rfl, rfl, rfl⟩, rfl, rfl, hp.imp id fun hp => ?_⟩
  simpa [State.latched] using hp.2

/-! ### The engine's exponent -/

theorem powStep_pn (u : PowRegs) : (powStep u).pn = u.pn >>> 1 := by
  unfold powStep
  split
  · next h => simp [h]
  · rfl

theorem repeatStep_powStep_pn (k : Nat) (u : PowRegs) : (repeatStep powStep k u).pn = u.pn >>> k := by
  induction k with
  | zero => rfl
  | succ k ih => rw [repeatStep_succ', powStep_pn, ih, ← Nat.shiftRight_add]

/-- The engine only shortens its exponent, so PN stays as wide as it was. -/
theorem repeatStep_powStep_pn_le (k : Nat) (u : PowRegs) : (repeatStep powStep k u).pn ≤ u.pn := by
  rw [repeatStep_powStep_pn]
  exact Nat.shiftRight_le _ _

/-! ### Legal states -/

theorem legal_resetEdge {s : State} (h : 1 ≤ s.expW) : s.resetEdge.legal := by
  have hpos : 0 < 2 ^ s.expW := pow_pos two_pos _
  refine ⟨h, Nat.mod_lt _ hpos, Nat.mod_lt _ hpos, ?_⟩
  simp

/-- A command that fits the port, taken at least one edge before it completes, keeps a legal state legal. -/
theorem legal_takeCommand {s : State} {p : Pins} {lat : Nat} (hs : s.legal) (hn : p.n < 2 ^ s.expW)
    (hlat : 1 ≤ lat) : (s.takeCommand p lat).legal := by
  obtain ⟨hexp, -, hpn, -, herr, hc, -⟩ := hs
  have hpn' : (s.takeCommand p lat).powRegs.pn < 2 ^ s.expW := by
    rw [State.takeCommand_powRegs]
    split
    · exact hn
    · exact hpn
  exact ⟨hexp, hn, hpn', by simp, herr, hc, by simp, by simp [hlat]⟩

theorem legal_advancePins {s : State} (hs : s.legal) : s.advancePins.legal := hs

theorem legal_workEdge {s : State} (t : Timing) (hs : s.legal) (hleft : 2 ≤ s.edgesLeft) :
    (s.workEdge t).legal := by
  obtain ⟨hexp, hopn, hpn, hboth, herr, hc, hidle, hbusy⟩ := hs
  have hpn' : (s.workEdge t).powRegs.pn < 2 ^ s.expW := by
    rw [State.workEdge_powRegs]
    split
    · exact (repeatStep_powStep_pn_le _ _).trans_lt hpn
    · exact hpn
  refine ⟨hexp, hopn, hpn', hboth, herr, hc, hidle, ?_⟩
  rw [State.workEdge_busy, State.workEdge_edgesLeft, hbusy]
  omega

/-- A state that shows a Result is legal if its exponents fit and no edges are left. -/
theorem legal_of_shows {s : State} {res : Result} (hshows : s.shows res) (hexp : 1 ≤ s.expW)
    (hopn : s.opn < 2 ^ s.expW) (hpn : s.powRegs.pn < 2 ^ s.expW) (hleft : s.edgesLeft = 0) :
    s.legal := by
  obtain ⟨hbusy, hdone, herr, hc⟩ := hshows
  refine ⟨hexp, hopn, hpn, by simp [hbusy], herr ▸ Result.errBits_ne_three res, fun hne => ?_,
    by simp [hdone], by simp [hbusy, hleft]⟩
  rw [hc]
  exact Result.data_of_errBits_ne_zero res (herr ▸ hne)

/-- An edge keeps the legal states, under every timing. -/
theorem edge_keeps_legal {t : Timing} {s s' : State} (hs : s.legal) (h : edge t s = .next s') :
    s'.legal := by
  obtain ⟨-, rfl⟩ | ⟨-, -, -, hn, rfl⟩ | ⟨-, -, -, hexec⟩ | ⟨-, -, -, rfl⟩ | ⟨-, -, hleft, rfl⟩ :=
    edge_cases h
  · exact legal_resetEdge hs.1
  · exact legal_takeCommand (legal_advancePins hs) hn (Nat.le_add_left 1 _)
  · obtain ⟨hshows, ⟨-, -, -, hopn'⟩, hexp', hleft, hp⟩ := completed_of_exec hexec
    obtain ⟨hexp, hopn, hpn, -⟩ := hs
    have hpn' : s'.powRegs.pn < 2 ^ s.expW := by
      obtain hp | hp := hp
      · exact hp ▸ hpn
      · exact hp ▸ (repeatStep_powStep_pn_le _ _).trans_lt hopn
    exact legal_of_shows hshows (hexp' ▸ hexp) (hexp' ▸ hopn' ▸ hopn) (hexp' ▸ hpn') hleft
  · exact legal_advancePins hs
  · exact legal_workEdge t (legal_advancePins hs) hleft

/-! ### The response owed -/

/-- An edge keeps that a response shown is EXEC of the latches: only the completing edge raises DONE, and
only the accepting edge, which lowers it, or a reset changes the latches. -/
theorem edge_keeps_answered {t : Timing} {s s' : State} (hs : s.answered) (h : edge t s = .next s') :
    s'.answered := by
  obtain ⟨-, rfl⟩ | ⟨-, -, -, -, rfl⟩ | ⟨-, -, -, hexec⟩ | ⟨-, -, -, rfl⟩ | ⟨-, -, -, rfl⟩ :=
    edge_cases h
  · exact fun hdone => absurd hdone Bool.false_ne_true
  · exact fun hdone => absurd hdone Bool.false_ne_true
  · obtain ⟨hshows, ⟨hop, ha, hb, hn⟩, -⟩ := completed_of_exec hexec
    intro _
    rw [response_of_shows hshows]
    simp only [State.owedResult, hop, ha, hb, hn]
  · exact hs
  · exact hs

/-! ### The unit on its way -/

theorem tracked_of_not_busy {s : State} (h : s.busy = false) : s.tracked :=
  fun hbusy => absurd (h.symm.trans hbusy) Bool.false_ne_true

/-- The unit the command selects is at its start values, no step from them. -/
theorem tracked_takeCommand (s : State) (p : Pins) (lat : Nat) : (s.takeCommand p lat).tracked := by
  refine fun _ => ⟨fun hop => ⟨0, ?_⟩, fun hop => ⟨0, ?_⟩, fun hop ha => ⟨0, ?_⟩, fun hop => ⟨0, ?_⟩⟩
  · exact if_pos hop
  · exact if_pos hop
  · exact if_pos ⟨hop, ha⟩
  · exact if_pos hop

/-- Steps of the unit in work come on top of those it has taken. -/
theorem tracked_workUnit {s : State} (k : Nat) (hs : s.tracked) : (s.workUnit k).tracked := by
  intro hbusy
  obtain ⟨hmul, hsqr, hinv, hpow⟩ := hs hbusy
  refine ⟨fun hop => ?_, fun hop => ?_, fun hop ha => ?_, fun hop => ?_⟩
  · obtain ⟨j, hj⟩ := hmul hop
    exact ⟨j + k, by rw [repeatStep_add]; exact hj ▸ if_pos hop⟩
  · obtain ⟨j, hj⟩ := hsqr hop
    exact ⟨j + k, by rw [repeatStep_add]; exact hj ▸ if_pos hop⟩
  · obtain ⟨j, hj⟩ := hinv hop ha
    exact ⟨j + k, by rw [repeatStep_add]; exact hj ▸ if_pos ⟨hop, ha⟩⟩
  · obtain ⟨j, hj⟩ := hpow hop
    exact ⟨j + k, by rw [repeatStep_add]; exact hj ▸ if_pos hop⟩

theorem edge_keeps_tracked {t : Timing} {s s' : State} (hs : s.tracked) (h : edge t s = .next s') :
    s'.tracked := by
  obtain ⟨-, rfl⟩ | ⟨-, -, -, -, rfl⟩ | ⟨-, -, -, hexec⟩ | ⟨-, -, -, rfl⟩ | ⟨-, -, -, rfl⟩ :=
    edge_cases h
  · exact tracked_of_not_busy rfl
  · exact tracked_takeCommand _ _ _
  · obtain ⟨⟨hbusy, -⟩, -⟩ := completed_of_exec hexec
    exact tracked_of_not_busy hbusy
  · exact hs
  · exact tracked_workUnit (s := s.advancePins) _ hs

/-! ### The status word -/

/-- Of the sixteen words the seven of R32 are left without the code 3, without BUSY and DONE together, and
without an error that neither shows. -/
theorem status_mem : ∀ (busy done : Bool) (err : ErrBits), ¬ (busy = true ∧ done = true) → err ≠ 3#2 →
    (busy = false → done = false → err = 0#2) →
    err ++ (BitVec.ofBool done ++ BitVec.ofBool busy) ∈ legalStatus := by
  decide

theorem status_fields : ∀ (busy done : Bool) (err : ErrBits),
    (err ++ (BitVec.ofBool done ++ BitVec.ofBool busy)).getLsbD 0 = busy
    ∧ (err ++ (BitVec.ofBool done ++ BitVec.ofBool busy)).getLsbD 1 = done
    ∧ (err ++ (BitVec.ofBool done ++ BitVec.ofBool busy)).extractLsb' 2 2 = err := by
  decide

/-! ### The obligations -/

/-- Settles O32: a step is an edge, and every case of the edge keeps the legal states. -/
theorem stepKeepsLegal : Obligations.StepKeepsLegal := fun _ _ => edge_keeps_legal

/-- Settles O33: a step is an edge, and every case of the edge keeps the response owed. -/
theorem stepKeepsAnswered : Obligations.StepKeepsAnswered := fun _ _ => edge_keeps_answered

/-- Settles O34: a step is an edge, and every case of the edge keeps the unit in work on its way. -/
theorem stepKeepsTracked : Obligations.StepKeepsTracked := fun _ _ => edge_keeps_tracked

/-- Settles O31: the reset state has no command, no response and no unit in work. -/
theorem invariantsHoldAtReset : Obligations.InvariantsHoldAtReset :=
  ⟨by decide, fun hdone => absurd hdone Bool.false_ne_true, tracked_of_not_busy rfl⟩

/-- Settles O35: the word of every BUSY, DONE and ERR, and what a legal state says of the three. -/
theorem statusIsOneOfSeven : Obligations.StatusIsOneOfSeven := by
  rintro s ⟨-, -, -, hboth, herr, -, hidle, -⟩
  obtain ⟨hb, hd, he⟩ := status_fields s.busy s.done s.err
  exact ⟨status_mem s.busy s.done s.err hboth herr fun hb hd => (hidle hb hd).1, hb, hd, he⟩

end Sys2Proof.Machine
end

section
/-! Runs of edges and the host's protocol: an idle core, a command cut off by a reset, a working core up to
its answer, and the issue of a command (R62, R151, R157, R166). -/

namespace Sys2Proof.Machine

/-! ### One edge of an idle core -/

section
variable {t : Timing} {s s' : State}

theorem edge_of_idle (hrst : s.nextPins.rst = false) (hbusy : s.busy = false)
    (hstart : s.nextPins.start = false) : edge t s = .next s.advancePins := by
  simp [edge, hrst, hbusy, hstart]

/-! ### Runs -/

/-- A core whose host asserts nothing only takes its inputs off the list. -/
theorem edges_of_idle (t : Timing) (k : Nat) (s : State) (hbusy : s.busy = false)
    (hpins : ∀ p ∈ s.pins.take k, p.rst = false ∧ p.start = false) :
    edges t k s = .next { s with pins := s.pins.drop k } := by
  induction k generalizing s with
  | zero => rfl
  | succ k ih =>
    have hnext : s.nextPins.rst = false ∧ s.nextPins.start = false := by
      cases hp : s.pins with
      | nil => rw [nextPins_of_no_pins hp]; exact ⟨rfl, rfl⟩
      | cons p later => rw [nextPins_of_pins hp]; exact hpins p (by simp [hp])
    have htail : ∀ p ∈ s.pins.tail.take k, p.rst = false ∧ p.start = false := by
      cases hp : s.pins with
      | nil => simp
      | cons p later => exact fun q hq => hpins q (by simp [hp, show q ∈ later.take k from hq])
    rw [edges_succ_of_edge k (edge_of_idle hnext.1 hbusy hnext.2), ih s.advancePins hbusy htail]
    simp [State.advancePins]

theorem edge_keeps_expW (h : edge t s = .next s') : s'.expW = s.expW := by
  obtain ⟨-, rfl⟩ | ⟨-, -, -, -, rfl⟩ | ⟨-, -, -, hexec⟩ | ⟨-, -, -, rfl⟩ | ⟨-, -, -, rfl⟩ :=
    edge_cases h
  · rfl
  · rfl
  · obtain ⟨-, -, hexp, -⟩ := completed_of_exec hexec
    exact hexp
  · rfl
  · rfl

/-! ### Waiting -/

theorem waitUntil_of_holds {p : State → Bool} {k : Nat} (hp : p s = true) :
    waitUntil t p k s = .next s := by
  cases k <;> simp [waitUntil, hp]

theorem waitUntil_of_edge {p : State → Bool} {k : Nat} (hp : p s = false) (h : edge t s = .next s') :
    waitUntil t p (k + 1) s = waitUntil t p k s' := by
  simp [waitUntil, hp, h]

theorem nextPins_rst_of_no_pins (hpins : s.pins = []) : s.nextPins.rst = false := by
  rw [nextPins_of_no_pins hpins]; rfl

end

/-- Waiting for what a working core is not yet, and what every responding core is, ends at the answer: the
wait is as long as the edges left, and the host drives nothing meanwhile. -/
theorem waitUntil_of_busy {t : Timing} {p : State → Bool}
    (hworking : ∀ s : State, s.legal → s.busy = true → p s = false)
    (hanswer : ∀ (s : State) (res : Result), s.shows res → p s = true)
    (k : Nat) (s : State) (hs : s.legal) (hbusy : s.busy = true) (hpins : s.pins = [])
    (hk : s.edgesLeft ≤ k) :
    ∃ s', waitUntil t p k s = .next s' ∧ s'.legal ∧ s'.shows s.owedResult ∧ s'.expW = s.expW := by
  have hrst := nextPins_rst_of_no_pins hpins
  induction k generalizing s with
  | zero =>
    obtain ⟨-, -, -, -, -, -, -, hleft⟩ := hs
    have := hleft.mp hbusy
    omega
  | succ k ih =>
    obtain hlast | hmore : s.edgesLeft ≤ 1 ∨ 2 ≤ s.edgesLeft := by omega
    · obtain ⟨s', hedge, hshows, -⟩ := edge_of_completing_shows t hrst hbusy hlast
      exact ⟨s', (waitUntil_of_edge (hworking s hs hbusy) hedge).trans
        (waitUntil_of_holds (hanswer s' _ hshows)), edge_keeps_legal hs hedge, hshows,
        edge_keeps_expW hedge⟩
    · have hedge := edge_of_working (t := t) hrst hbusy hmore
      rw [waitUntil_of_edge (hworking s hs hbusy) hedge]
      have htail : (s.advancePins.workEdge t).pins = [] := by simp [hpins]
      refine ih _ (edge_keeps_legal hs hedge) hbusy htail ?_ (nextPins_rst_of_no_pins htail)
      rw [State.workEdge_edgesLeft, State.advancePins_edgesLeft]
      omega

theorem isIdle_of_busy (s : State) (_ : s.legal) (hbusy : s.busy = true) : s.isIdle = false := by
  simp [State.isIdle, hbusy]

theorem isIdle_of_shows (s : State) (res : Result) (h : s.shows res) : s.isIdle = true := by
  obtain ⟨hbusy, -⟩ := h
  simp [State.isIdle, hbusy]

theorem isDone_of_busy (s : State) (hs : s.legal) (hbusy : s.busy = true) : s.isDone = false := by
  obtain ⟨-, -, -, hboth, -⟩ := hs
  exact Bool.eq_false_iff.mpr fun hdone => hboth ⟨hbusy, hdone⟩

theorem isDone_of_shows (s : State) (res : Result) (h : s.shows res) : s.isDone = true := by
  obtain ⟨-, hdone, -⟩ := h
  exact hdone

/-- The first wait of R62 ends in an idle core of the same width. -/
theorem waitUntil_isIdle (t : Timing) (s : State) (hs : s.legal) :
    ∃ s₁, waitUntil t State.isIdle (s.edgesLeft + 1) { s with pins := [] } = .next s₁
      ∧ s₁.legal ∧ s₁.busy = false ∧ s₁.expW = s.expW := by
  obtain hbusy | hbusy := Bool.eq_false_or_eq_true s.busy
  · obtain ⟨s₁, hwait, hs₁, ⟨hbusy₁, -⟩, hexp⟩ := waitUntil_of_busy (t := t) isIdle_of_busy
      isIdle_of_shows (s.edgesLeft + 1) { s with pins := [] } hs hbusy rfl (Nat.le_succ _)
    exact ⟨s₁, hwait, hs₁, hbusy₁, hexp⟩
  · have hidle : State.isIdle { s with pins := [] } = true := by simp [State.isIdle, hbusy]
    exact ⟨_, waitUntil_of_holds hidle, hs, hbusy, rfl⟩

/-! ### The obligations -/

/-- Settles O26: by induction over the edges, each of which is an idle one. -/
theorem idleCoreStaysIdle : Obligations.IdleCoreStaysIdle := edges_of_idle

/-- Settles O27: the reset leaves an idle core without a response, which stays as it is. -/
theorem commandCutOffByResetNeverAnswers : Obligations.CommandCutOffByResetNeverAnswers := by
  intro t k s p later _ hpins hrst hlater
  have hreset : edge t s = .next s.advancePins.resetEdge :=
    edge_of_reset (by rwa [nextPins_of_pins hpins])
  have htail : s.advancePins.resetEdge.pins = later := by simp [hpins]
  exact ⟨_, (edges_succ_of_edge k hreset).trans
    (edges_of_idle t k _ rfl fun q hq => hlater q (htail ▸ hq)), rfl, rfl, rfl, rfl⟩

/-- Settles O28: `edges_of_busy_shows` at the number of edges the core has left. -/
theorem workingCoreAnswers : Obligations.WorkingCoreAnswers := by
  intro t s hbusy hleft hrst
  obtain ⟨k, hk⟩ : ∃ k, s.edgesLeft = k + 1 := ⟨s.edgesLeft - 1, by omega⟩
  rw [hk] at hrst ⊢
  exact edges_of_busy_shows t k s hbusy hk hrst

/-- Settles O30: the first wait ends idle, the command is accepted there, and the second wait ends at its
answer. -/
theorem issuedCommandIsAnswered : Obligations.IssuedCommandIsAnswered := by
  intro t i s hs hi
  obtain ⟨s₁, hwait, hs₁, hbusy₁, hexp₁⟩ := waitUntil_isIdle t s hs
  have haccept := edge_of_accepting (t := t) (s := { s₁ with pins := [presentPins i] }) rfl hbusy₁ rfl
    (hexp₁ ▸ (i.wellFormed_iff _).mp hi)
  have hs₂ := edge_keeps_legal (s := { s₁ with pins := [presentPins i] }) hs₁ haccept
  obtain ⟨s', hdone, hs', hshows, -⟩ := waitUntil_of_busy (t := t) isDone_of_busy isDone_of_shows
    _ _ hs₂ rfl rfl (Nat.le_succ _)
  refine ⟨s', ?_, hs', ?_, response_of_shows hshows⟩
  · simp only [issue, hwait, haccept]
    exact hdone
  · obtain ⟨hbusy, hdone', -⟩ := hshows
    simp [State.isFinal, hbusy, hdone']

end Sys2Proof.Machine
end

section
/-! What single commands and single edges do: the completing edge of each command with its frame (R80, R132,
R133, R157), what its answer depends on (R53, R136), and the edge function case by case (R154 to R159). -/

namespace Sys2Proof.Machine

/-! ### The completing edge, one command each -/

/-- The bits of a sum are the sums of the bits: no carry (R80). -/
theorem fieldAdd_getLsbD (a b : Elem) (i : Nat) :
    (fieldAdd a b).getLsbD i = (a.getLsbD i ^^ b.getLsbD i) := BitVec.getLsbD_xor

/-- Adding the element with every bit set complements (R80). -/
theorem fieldAdd_allOnes_toNat (a : Elem) :
    (fieldAdd a (BitVec.allOnes 191)).toNat = (2 ^ 191 - 1) - a.toNat := by
  rw [fieldAdd, BitVec.xor_allOnes, BitVec.toNat_not]

/-- Settles O6: the effect is `execAdd` written out, and the corner cases are laws of exclusive or. -/
theorem addCompletes : Obligations.AddCompletes :=
  ⟨fun a b _ _ => ⟨rfl, rfl, fun i _ => fieldAdd_getLsbD a b i⟩,
    fun a => ⟨fieldAdd_zeroElem a, fieldAdd_self a, fieldAdd_allOnes_toNat a⟩, by decide⟩

/-- An Ok response, field by field (R157). -/
theorem respond_ok (s : State) (v : Elem) :
    s.respond (.ok v) = { s with c := v, err := 0#2, done := true, busy := false, edgesLeft := 0 } := rfl

/-- Settles O7: the multiplier's registers are left at the end of their loop. -/
theorem mulCompletes : Obligations.MulCompletes := by
  intro a b n s
  refine ⟨mulFinish a b, ?_⟩
  simp only [exec, execMul, respond_ok]

/-- Settles O8: the squarer's registers are left at the end of their scan. -/
theorem sqrCompletes : Obligations.SqrCompletes := by
  intro a b n s
  refine ⟨sqrFinish a, ?_⟩
  simp only [exec, execSqr, respond_ok]

/-- Settles O9: the engine's registers are left at the end of their loop. -/
theorem powCompletes : Obligations.PowCompletes := fun a _ n _ => ⟨powFinish a n, rfl⟩

theorem fieldInv_of_ne_zero {a : Elem} (ha : a ≠ zeroElem) :
    fieldInv a = .ok (euclidLoop euclidBound (invStart a)).eu := if_neg ha

/-- Settles O10: a nonzero operand passes the zero test, and the inverter is left at the end of its loop. -/
theorem invOfNonzeroCompletes : Obligations.InvOfNonzeroCompletes := by
  intro a b n s ha
  refine ⟨_, invFinish a, fieldInv_of_ne_zero ha, ?_⟩
  simp only [exec, execInv, fieldInv_of_ne_zero ha, State.finishInverter, if_neg ha, respond_ok]

/-- Settles O11: the zero test comes first, and the loop does not run. -/
theorem invOfZeroAnswersDivByZero : Obligations.InvOfZeroAnswersDivByZero := fun _ _ _ => rfl

/-- Settles O12: the three arms raise ILLEGAL_OP and do nothing else. -/
theorem reservedCodesAnswerIllegalOp : Obligations.ReservedCodesAnswerIllegalOp := fun _ _ _ _ =>
  ⟨rfl, rfl, rfl⟩

/-! ### What an answer depends on -/

/-- Settles O15: per operation code, EXEC's equation names only the fields R53 lists for it. -/
theorem unreadFieldsDoNotMatter : Obligations.UnreadFieldsDoNotMatter := by
  intro op a b a' b' n n' ha hb hn
  obtain rfl | rfl | rfl | rfl | rfl | hres := opCode_cases op
  · rw [ha rfl, hb rfl, commandResult_add, commandResult_add]
  · rw [ha rfl, hb rfl, commandResult_mul, commandResult_mul]
  · rw [ha rfl, commandResult_sqr, commandResult_sqr]
  · rw [ha rfl, commandResult_inv, commandResult_inv]
  · rw [ha rfl, hn rfl, commandResult_pow, commandResult_pow]
  · rw [(commandResult_eq_illegalOp_iff op a b n).mpr hres,
      (commandResult_eq_illegalOp_iff op a' b' n').mpr hres]

theorem outputs_of_shows {s : State} {res : Result} (h : s.shows res) :
    s.outputs = ⟨false, true, res.errBits, res.data⟩ := by
  obtain ⟨hbusy, hdone, herr, hc⟩ := h
  simp only [State.outputs, hbusy, hdone, herr, hc]

/-- Settles O16: from both states the outputs show EXEC of the command's fields. -/
theorem answersDoNotDependOnTheState : Obligations.AnswersDoNotDependOnTheState := by
  intro i s₁ s₂
  obtain ⟨-, hshows⟩ := execShowsTheCommandFunction
  obtain ⟨t₁, h₁, hs₁, -⟩ := hshows i s₁
  obtain ⟨t₂, h₂, hs₂, -⟩ := hshows i s₂
  exact ⟨t₁, t₂, h₁, h₂, (outputs_of_shows hs₁).trans (outputs_of_shows hs₂).symm⟩

/-! ### The edge function, case by case -/

/-- Settles O18: the reset state's registers, written out. -/
theorem resetStateIsIdle : Obligations.ResetStateIsIdle := ⟨rfl, rfl, rfl, rfl, rfl, rfl⟩

/-- Settles O19: the accepting edge's equation, read off field by field. -/
theorem acceptingEdge : Obligations.AcceptingEdge := by
  intro t s p later hpins hrst hbusy hstart hn
  obtain rfl := nextPins_of_pins hpins
  have htail : s.pins.tail = later := by rw [hpins, List.tail_cons]
  exact ⟨_, edge_of_accepting hrst hbusy hstart hn, rfl, rfl, rfl, rfl, rfl, rfl, rfl, rfl, rfl,
    Nat.le_add_left 1 _, rfl, rfl, rfl, rfl, rfl, htail, rfl⟩

/-- Settles O20: with BUSY = 1 the edge function reads `rst` alone, and takes the same list on. -/
theorem busyCoreIgnoresItsInputs : Obligations.BusyCoreIgnoresItsInputs := by
  intro t s p q later hbusy hpq
  simp only [edge, State.nextPins, State.advancePins, State.latched, List.headD_cons, List.tail_cons,
    hbusy, hpq, Bool.not_true, Bool.false_eq_true, if_false]

/-- Settles O21: the completing edge's equation holds for every timing. -/
theorem stepRunsTheLatchedCommand : Obligations.StepRunsTheLatchedCommand := fun _ hrst hbusy hleft =>
  ⟨edge_of_completing hrst hbusy hleft, fun _ =>
    (edge_of_completing hrst hbusy hleft).trans (edge_of_completing hrst hbusy hleft).symm⟩

/-- A word whose exponent fits the core puts its own command into the latches. -/
theorem loadCommand_latched {s : State} {w : Nat} (hn : wordN w < 2 ^ s.expW) :
    (s.loadCommand w).latched = decodeFields (wordOp w) (wordA w) (wordB w) (wordN w) := by
  simp [State.loadCommand, State.latched, Nat.mod_eq_of_lt hn]

/-- The words of the table that decode are short enough, and decode to their own fields. -/
theorem decodeTableWord_eq_some {nbits w : Nat} {i : Instr} (h : decodeTableWord nbits w = some i) :
    w % 2 ^ nbits < 2 ^ (385 + 192)
      ∧ i = decodeFields (wordOp (w % 2 ^ nbits)) (wordA (w % 2 ^ nbits)) (wordB (w % 2 ^ nbits))
          (wordN (w % 2 ^ nbits)) := by
  unfold decodeTableWord at h
  obtain hw | hw := Nat.lt_or_ge (w % 2 ^ nbits) (2 ^ (385 + 192))
  · rw [decode_of_lt hw] at h
    exact ⟨hw, (Option.some.inj h).symm⟩
  · rw [decode_of_le hw] at h
    cases h

/-- Settles O22: the word put in place is the latched command of a core at its completing edge. -/
theorem fetchedWordRuns : Obligations.FetchedWordRuns := by
  intro nbits w i s hexp h
  obtain ⟨hw, rfl⟩ := decodeTableWord_eq_some h
  rw [← loadCommand_latched (s := s) (hexp ▸ wordN_lt hw)]
  exact edge_of_completing (releaseReset_nextPins_rst _) rfl (Nat.le_refl 1)

/-- Settles O23: the idle edge's equation, and the working edge's read off field by field. -/
theorem otherEdgesChangeNothingVisible : Obligations.OtherEdgesChangeNothingVisible := by
  refine fun t s hrst => ⟨edge_of_idle hrst, fun hbusy hleft => ?_⟩
  refine ⟨_, edge_of_working hrst hbusy hleft, ⟨rfl, rfl, rfl, rfl⟩, ⟨rfl, rfl, rfl, rfl⟩, ?_, rfl, rfl,
    rfl, fun hop => if_neg hop, fun hop => if_neg hop, fun hop => if_neg fun h => hop h.1,
    fun hop => if_neg hop⟩
  rw [State.workEdge_edgesLeft, State.advancePins_edgesLeft]
  omega

/-- An edge that accepts nothing too wide gives a next state: the five cases of R154. -/
theorem exists_next_of_edge (t : Timing) (s : State)
    (hn : s.nextPins.rst = false → s.busy = false → s.nextPins.start = true →
      s.nextPins.n < 2 ^ s.expW) :
    ∃ s', edge t s = .next s' := by
  cases hrst : s.nextPins.rst with
  | true => exact ⟨_, edge_of_reset hrst⟩
  | false =>
    cases hbusy : s.busy with
    | true =>
      obtain hlast | hmore : s.edgesLeft ≤ 1 ∨ 2 ≤ s.edgesLeft := by omega
      · obtain ⟨s', hedge, -⟩ := edge_of_completing_shows t hrst hbusy hlast
        exact ⟨s', hedge⟩
      · exact ⟨_, edge_of_working hrst hbusy hmore⟩
    | false =>
      cases hstart : s.nextPins.start with
      | true => exact ⟨_, edge_of_accepting hrst hbusy hstart (hn hrst hbusy hstart)⟩
      | false => exact ⟨_, edge_of_idle hrst hbusy hstart⟩

theorem edge_of_too_wide {t : Timing} {s : State} (hrst : s.nextPins.rst = false)
    (hbusy : s.busy = false) (hstart : s.nextPins.start = true) (hn : 2 ^ s.expW ≤ s.nextPins.n) :
    edge t s = .refused .exponentTooWide := by
  have hfits : exponentFits s.expW s.nextPins.n = false := decide_eq_false hn.not_gt
  simp [edge, acceptEdge, hrst, hbusy, hstart, hfits]

/-- Settles O24: only an accepting edge looks at the exponent, and it refuses exactly one that does not fit. -/
theorem everyEdgeGivesANextState : Obligations.EveryEdgeGivesANextState := by
  refine fun t s => ⟨fun hn => exists_next_of_edge t s fun _ _ _ => hn, fun r hr => ?_⟩
  have hwide : ¬ (s.nextPins.rst = false → s.busy = false → s.nextPins.start = true →
      s.nextPins.n < 2 ^ s.expW) := by
    intro hn
    obtain ⟨s', hs'⟩ := exists_next_of_edge t s hn
    exact nomatch hs'.symm.trans hr
  push Not at hwide
  obtain ⟨hrst, hbusy, hstart, hn⟩ := hwide
  exact ⟨(Host.Outcome.refused.inj ((edge_of_too_wide hrst hbusy hstart hn).symm.trans hr)).symm,
    hrst, hstart, hbusy, hn⟩

/-- Settles O25: of the cases of R154 only the accepting edge leaves BUSY = 1 after BUSY = 0. -/
theorem busyRisesOnlyByStart : Obligations.BusyRisesOnlyByStart := by
  intro t s s' h hbusy hbusy'
  obtain ⟨-, rfl⟩ | ⟨hrst, -, hstart, -, -⟩ | ⟨-, hb, -⟩ | ⟨-, -, -, rfl⟩ | ⟨-, hb, -⟩ := edge_cases h
  · exact absurd hbusy' Bool.false_ne_true
  · exact ⟨hstart, hrst⟩
  · exact absurd (hbusy.symm.trans hb) Bool.false_ne_true
  · exact absurd (hbusy.symm.trans hbusy') Bool.false_ne_true
  · exact absurd (hbusy.symm.trans hb) Bool.false_ne_true

end Sys2Proof.Machine
end

section
/-! The lines the assembler accepts (R60, R61): each of its forms writes the fields its mnemonic reads and
leaves the others zero. -/

namespace Sys2Proof.Machine

/-! ### The four operand forms -/

section
variable {make : Elem → Elem → Nat → Instr} {operands : List (List Char)} {i : Instr}

theorem asmTwo_eq_ok (h : asmTwo make operands = .ok i) : ∃ a b, i = make a b 0 := by
  unfold asmTwo at h
  split at h
  · split at h
    · next a b _ _ => exact ⟨a, b, (Except.ok.inj h).symm⟩
    · cases h
  · cases h

theorem asmOne_eq_ok (h : asmOne make operands = .ok i) : ∃ a, i = make a zeroElem 0 := by
  unfold asmOne at h
  split at h
  · split at h
    · next a _ => exact ⟨a, (Except.ok.inj h).symm⟩
    · cases h
  · cases h

theorem asmPower_eq_ok {expW : Nat} (h : asmPower expW operands = .ok i) :
    ∃ a n, n < 2 ^ expW ∧ i = .pow a zeroElem n := by
  unfold asmPower at h
  split at h
  · split at h
    · next a n _ _ =>
      obtain ⟨hn, h⟩ | ⟨-, h⟩ := ite_eq_iff.mp h
      · exact ⟨a, n, of_decide_eq_true hn, (Except.ok.inj h).symm⟩
      · cases h
    · cases h
    · cases h
  · cases h

theorem asmNone_eq_ok (h : asmNone make operands = .ok i) : i = make zeroElem zeroElem 0 := by
  unfold asmNone at h
  split at h
  · exact (Except.ok.inj h).symm
  · cases h

end

/-! ### The command of a line -/

/-- The commands a line can stand for: one form per mnemonic of R60. -/
inductive AssembledForm (expW : Nat) : Instr → Prop
  | add (a b : Elem) : AssembledForm expW (.add a b 0)
  | mul (a b : Elem) : AssembledForm expW (.mul a b 0)
  | sqr (a : Elem) : AssembledForm expW (.sqr a zeroElem 0)
  | inv (a : Elem) : AssembledForm expW (.inv a zeroElem 0)
  | pow (a : Elem) {n : Nat} (hn : n < 2 ^ expW) : AssembledForm expW (.pow a zeroElem n)
  | rsv5 : AssembledForm expW (.rsv5 zeroElem zeroElem 0)
  | rsv6 : AssembledForm expW (.rsv6 zeroElem zeroElem 0)
  | rsv7 : AssembledForm expW (.rsv7 zeroElem zeroElem 0)

theorem assembledForm_of_assemble {expW : Nat} {line : List Char} {i : Instr}
    (h : assemble expW line = .ok i) : AssembledForm expW i := by
  unfold assemble at h
  extract_lets text word rest operands at h
  split at h
  · cases h
  · split at h
    · cases h
    · split_ifs at h
      · obtain ⟨a, b, rfl⟩ := asmTwo_eq_ok h
        exact .add a b
      · obtain ⟨a, b, rfl⟩ := asmTwo_eq_ok h
        exact .mul a b
      · obtain ⟨a, rfl⟩ := asmOne_eq_ok h
        exact .sqr a
      · obtain ⟨a, rfl⟩ := asmOne_eq_ok h
        exact .inv a
      · obtain ⟨a, n, hn, rfl⟩ := asmPower_eq_ok h
        exact .pow a hn
      · exact asmNone_eq_ok h ▸ .rsv5
      · exact asmNone_eq_ok h ▸ .rsv6
      · exact asmNone_eq_ok h ▸ .rsv7

theorem AssembledForm.fieldN_lt {expW : Nat} {i : Instr} (h : AssembledForm expW i) :
    i.fieldN < 2 ^ expW := by
  cases h with
  | pow a hn => exact hn
  | _ => exact pow_pos two_pos _

/-- The fields a form leaves zero are those its operation code does not read (R53). -/
theorem AssembledForm.unread_zero {expW : Nat} {i : Instr} (h : AssembledForm expW i) :
    (readsField i.opCode .a = false → i.fieldA = zeroElem)
      ∧ (readsField i.opCode .b = false → i.fieldB = zeroElem)
      ∧ (readsField i.opCode .n = false → i.fieldN = 0) := by
  have read {p : Prop} : true = false → p := fun h => absurd h.symm Bool.false_ne_true
  cases h with
  | add | mul => exact ⟨read, read, fun _ => rfl⟩
  | sqr | inv => exact ⟨read, fun _ => rfl, fun _ => rfl⟩
  | pow => exact ⟨read, fun _ => rfl, read⟩
  | rsv5 | rsv6 | rsv7 => exact ⟨fun _ => rfl, fun _ => rfl, fun _ => rfl⟩

/-! ### The obligation -/

/-- Settles O59: the form of an accepted line bounds its exponent and leaves its unread fields zero. -/
theorem assembledLineFits : Obligations.AssembledLineFits := by
  intro expW line i h
  have hform := assembledForm_of_assemble h
  exact ⟨(i.wellFormed_iff expW).mpr hform.fieldN_lt, hform.unread_zero⟩

end Sys2Proof.Machine
end

section
/-! Bit vectors as polynomials over GF(2) (R8, R12): bit `i` is the coefficient of X^i. Exclusive or becomes
addition, a shift becomes multiplication by a power of X, the carry-less product becomes the product. -/

namespace Sys2Proof.Machine

open Polynomial

/-! ### The polynomial of a bit vector -/

/-- The polynomial over GF(2) whose coefficients are the bits of `n`. -/
noncomputable def polyOf (n : Nat) : (ZMod 2)[X] := ∑ i ∈ n.bitIndices.toFinset, X ^ i

theorem polyOf_coeff (n i : Nat) : (polyOf n).coeff i = if n.testBit i then 1 else 0 := by
  simp [polyOf, coeff_X_pow]

theorem polyOf_coeff_eq_zero {n i : Nat} : (polyOf n).coeff i = 0 ↔ n.testBit i = false := by
  simp [polyOf_coeff]

theorem polyOf_injective : Function.Injective polyOf := by
  intro m n h
  refine Nat.eq_of_testBit_eq fun i => Bool.eq_iff_iff.mpr ?_
  have hi := congrArg (fun p => coeff p i = 0) h
  simpa [polyOf_coeff] using hi

@[simp] theorem polyOf_zero : polyOf 0 = 0 := by simp [polyOf]

@[simp] theorem polyOf_one : polyOf 1 = 1 := by simp [polyOf]

@[simp] theorem polyOf_two_pow (k : Nat) : polyOf (2 ^ k) = X ^ k := by simp [polyOf]

theorem polyOf_eq_zero {n : Nat} : polyOf n = 0 ↔ n = 0 :=
  ⟨fun h => polyOf_injective (h.trans polyOf_zero.symm), fun h => h ▸ polyOf_zero⟩

/-! ### The operations on bit vectors -/

@[simp] theorem polyOf_xor (m n : Nat) : polyOf (m ^^^ n) = polyOf m + polyOf n := by
  ext i
  rw [coeff_add, polyOf_coeff, polyOf_coeff, polyOf_coeff, Nat.testBit_xor]
  cases m.testBit i <;> cases n.testBit i <;> decide

@[simp] theorem polyOf_shiftLeft (n k : Nat) : polyOf (n <<< k) = polyOf n * X ^ k := by
  ext i
  rw [coeff_mul_X_pow', polyOf_coeff, polyOf_coeff, Nat.testBit_shiftLeft]
  by_cases h : k ≤ i <;> simp [h]

/-- A bit vector is its low part and its high part. -/
theorem polyOf_split (n k : Nat) : polyOf n = polyOf (n % 2 ^ k) + polyOf (n >>> k) * X ^ k := by
  ext i
  rw [coeff_add, coeff_mul_X_pow', polyOf_coeff, polyOf_coeff, polyOf_coeff, Nat.testBit_mod_two_pow,
    Nat.testBit_shiftRight]
  obtain h | h := Nat.lt_or_ge i k
  · simp [h, h.not_ge]
  · simp [h, h.not_gt]

/-- One more low bit is one more term. -/
theorem polyOf_mod_two_pow_succ (n k : Nat) :
    polyOf (n % 2 ^ (k + 1)) = polyOf (n % 2 ^ k) + if n.testBit k then X ^ k else 0 := by
  ext i
  rw [coeff_add, polyOf_coeff, polyOf_coeff, Nat.testBit_mod_two_pow, Nat.testBit_mod_two_pow]
  obtain h | rfl | h := Nat.lt_trichotomy i k
  · simp [h, h.trans (Nat.lt_succ_self k), apply_ite (coeff · i), coeff_X_pow, h.ne]
  · simp [apply_ite (coeff · i)]
  · simp [h.not_gt, h.not_ge, apply_ite (coeff · i), coeff_X_pow, h.ne']

theorem polyOf_clmulLow (p q k : Nat) : polyOf (clmulLow p q k) = polyOf p * polyOf (q % 2 ^ k) := by
  induction k with
  | zero => simp [clmulLow, Nat.mod_one]
  | succ k ih =>
    rw [polyOf_mod_two_pow_succ, clmulLow]
    split
    · rw [polyOf_xor, ih, polyOf_shiftLeft, mul_add]
    · rw [ih, add_zero]

theorem lt_two_pow_bitLength (n : Nat) : n < 2 ^ bitLength n := by
  unfold bitLength
  split
  · next h => simp [h]
  · exact Nat.lt_log2_self

/-- The carry-less product is the product of polynomials (R12). -/
@[simp] theorem polyOf_clmul (p q : Nat) : polyOf (clmul p q) = polyOf p * polyOf q := by
  rw [clmul, polyOf_clmulLow, Nat.mod_eq_of_lt (lt_two_pow_bitLength q)]

/-! ### Degrees -/

/-- A bound on a bit vector is a bound on its polynomial's degree. -/
theorem polyOf_degree_lt_iff (n k : Nat) : (polyOf n).degree < k ↔ n < 2 ^ k := by
  rw [degree_lt_iff_coeff_zero]
  refine ⟨fun h => Nat.lt_pow_two_of_testBit n fun i hi => polyOf_coeff_eq_zero.mp (h i hi),
    fun h i hi => polyOf_coeff_eq_zero.mpr ?_⟩
  exact Nat.testBit_lt_two_pow (h.trans_le (Nat.pow_le_pow_right two_pos hi))

/-- The degree of R9, for a nonzero bit vector. -/
theorem polyOf_natDegree (n : Nat) : (polyOf n).natDegree = n.log2 := by
  obtain rfl | hn := eq_or_ne n 0
  · simp
  · have hne : polyOf n ≠ 0 := mt polyOf_eq_zero.mp hn
    have hbound (k : Nat) : (polyOf n).natDegree < k ↔ n.log2 < k := by
      rw [natDegree_lt_iff_degree_lt hne, polyOf_degree_lt_iff, Nat.log2_lt hn]
    have hle := (hbound _).mp (Nat.lt_succ_self _)
    have hge := (hbound _).mpr (Nat.lt_succ_self _)
    omega

/-- Two vectors with one top bit cancel below it. -/
theorem xor_lt_two_pow_of_log2_eq {m n : Nat} (hm : m ≠ 0) (hn : n ≠ 0) (h : m.log2 = n.log2) :
    m ^^^ n < 2 ^ m.log2 := by
  have htop {k : Nat} (hk : k ≠ 0) : (polyOf k).degree = (k.log2 : Nat) := by
    rw [degree_eq_natDegree (mt polyOf_eq_zero.mp hk), polyOf_natDegree]
  have hlead {k : Nat} (hk : k ≠ 0) : (polyOf k).leadingCoeff = 1 := by
    have hne : (polyOf k).leadingCoeff ≠ 0 := leadingCoeff_ne_zero.mpr (mt polyOf_eq_zero.mp hk)
    revert hne
    generalize (polyOf k).leadingCoeff = c
    revert c
    decide
  rw [← polyOf_degree_lt_iff, polyOf_xor, ← htop hm, ← CharTwo.sub_eq_add]
  exact degree_sub_lt_left ((htop hm).trans (h ▸ (htop hn).symm)) (mt polyOf_eq_zero.mp hm)
    ((hlead hm).trans (hlead hn).symm)

end Sys2Proof.Machine
end

section
/-! Bit vectors modulo f (R2, R22): the ring of residues, in which every unit's loop is a sum, a product or a
power; the remainder function of R12 picks the one residue below 2^191, so an element is its residue. -/

namespace Sys2Proof.Machine

open Polynomial

/-! ### The reduction polynomial -/

/-- The polynomial f, as the constant R has it (R2, R22). -/
noncomputable def fieldPoly : (ZMod 2)[X] := polyOf reductionPolynomial.toNat

/-- The three bits of R (R22). -/
theorem reductionPolynomial_toNat : reductionPolynomial.toNat = 2 ^ 191 ^^^ 2 ^ 9 ^^^ 2 ^ 0 := by decide

theorem fieldPoly_eq : fieldPoly = X ^ 191 + X ^ 9 + 1 := by
  rw [fieldPoly, reductionPolynomial_toNat, polyOf_xor, polyOf_xor, polyOf_two_pow, polyOf_two_pow,
    polyOf_two_pow, pow_zero]

theorem reductionPolynomial_ne_zero : reductionPolynomial.toNat ≠ 0 := by decide

theorem reductionPolynomial_log2 : reductionPolynomial.toNat.log2 = 191 := by decide

theorem fieldPoly_monic : fieldPoly.Monic := by
  rw [fieldPoly_eq]
  monicity!

theorem fieldPoly_degree : fieldPoly.degree = (191 : Nat) := by
  rw [degree_eq_natDegree fieldPoly_monic.ne_zero, fieldPoly, polyOf_natDegree,
    reductionPolynomial_log2]

/-! ### Residues -/

/-- The polynomials over GF(2) modulo f. -/
abbrev ResidueRing := AdjoinRoot fieldPoly

/-- The residue of X. -/
noncomputable abbrev xRes : ResidueRing := AdjoinRoot.root fieldPoly

/-- The residue of a bit vector. -/
noncomputable def residue (n : Nat) : ResidueRing := AdjoinRoot.mk fieldPoly (polyOf n)

@[simp] theorem residue_zero : residue 0 = 0 := by simp [residue]

@[simp] theorem residue_one : residue 1 = 1 := by simp [residue]

@[simp] theorem residue_two_pow (k : Nat) : residue (2 ^ k) = xRes ^ k := by simp [residue]

@[simp] theorem residue_xor (m n : Nat) : residue (m ^^^ n) = residue m + residue n := by simp [residue]

@[simp] theorem residue_shiftLeft (n k : Nat) : residue (n <<< k) = residue n * xRes ^ k := by
  simp [residue]

@[simp] theorem residue_clmul (m n : Nat) : residue (clmul m n) = residue m * residue n := by
  simp [residue]

theorem residue_clmulLow (m n k : Nat) : residue (clmulLow m n k) = residue m * residue (n % 2 ^ k) := by
  simp [residue, polyOf_clmulLow]

@[simp] theorem residue_reductionPolynomial : residue reductionPolynomial.toNat = 0 := AdjoinRoot.mk_self

theorem residue_split (n k : Nat) : residue n = residue (n % 2 ^ k) + residue (n >>> k) * xRes ^ k := by
  rw [residue, polyOf_split n k]
  simp [residue]

theorem residue_mod_two_pow_succ (n k : Nat) :
    residue (n % 2 ^ (k + 1)) = residue (n % 2 ^ k) + if n.testBit k then xRes ^ k else 0 := by
  rw [residue, polyOf_mod_two_pow_succ]
  split <;> simp [residue]

/-- The residues have characteristic 2. -/
theorem residueRing_add_self (z : ResidueRing) : z + z = 0 := by
  obtain ⟨p, rfl⟩ := AdjoinRoot.mk_surjective z
  rw [← map_add, CharTwo.add_self_eq_zero, map_zero]

theorem residueRing_add_eq_zero {y z : ResidueRing} : y + z = 0 ↔ y = z := by
  rw [← residueRing_add_self z, add_left_inj]

/-- X^191 folds into bits 9 and 0 (R87). -/
theorem xRes_pow_191 : xRes ^ 191 = xRes ^ 9 + 1 := by
  have hroot : xRes ^ 191 + xRes ^ 9 + 1 = 0 := by
    have hself : AdjoinRoot.mk fieldPoly (X ^ 191 + X ^ 9 + 1) = 0 := by
      rw [← fieldPoly_eq, AdjoinRoot.mk_self]
    simpa only [map_add, map_pow, map_one, AdjoinRoot.mk_X] using hself
  rwa [add_assoc, residueRing_add_eq_zero] at hroot

/-- Below 2^191 a residue has one bit vector. -/
theorem eq_of_residue_eq {m n : Nat} (hm : m < 2 ^ 191) (hn : n < 2 ^ 191)
    (h : residue m = residue n) : m = n := by
  have hdvd : fieldPoly ∣ polyOf m - polyOf n := AdjoinRoot.mk_eq_mk.mp h
  have hdeg : (polyOf m - polyOf n).degree < fieldPoly.degree := by
    rw [fieldPoly_degree]
    exact (degree_sub_le _ _).trans_lt
      (max_lt ((polyOf_degree_lt_iff m 191).mpr hm) ((polyOf_degree_lt_iff n 191).mpr hn))
  exact polyOf_injective (sub_eq_zero.mp (eq_zero_of_dvd_of_degree_lt hdvd hdeg))

/-! ### The remainder modulo R -/

/-- R moved under the top bit of a longer vector has that top bit. -/
theorem log2_reductionPolynomial_shiftLeft (j : Nat) :
    (reductionPolynomial.toNat <<< j).log2 = 191 + j := by
  have hne : polyOf reductionPolynomial.toNat ≠ 0 := mt polyOf_eq_zero.mp reductionPolynomial_ne_zero
  rw [← polyOf_natDegree, polyOf_shiftLeft, natDegree_mul_X_pow _ hne, polyOf_natDegree,
    reductionPolynomial_log2]

/-- One step of the remainder loop takes the top bit off (R12). -/
theorem xor_reductionPolynomial_lt {p j : Nat} (hp : p ≠ 0) (hlog : p.log2 = 191 + j) :
    p ^^^ (reductionPolynomial.toNat <<< j) < 2 ^ p.log2 := by
  refine xor_lt_two_pow_of_log2_eq hp ?_ (hlog.trans (log2_reductionPolynomial_shiftLeft j).symm)
  rw [Nat.shiftLeft_eq]
  exact Nat.mul_ne_zero reductionPolynomial_ne_zero (pow_ne_zero j two_ne_zero)

theorem polymodLoop_lt (k p : Nat) (hp : p < 2 ^ k) : polymodLoop k p < 2 ^ 191 := by
  induction k generalizing p with
  | zero => exact hp.trans (by decide)
  | succ k ih =>
    rw [polymodLoop]
    split
    · assumption
    · next hbig =>
      have hne : p ≠ 0 := by rintro rfl; exact hbig (by decide)
      have hlow : 191 ≤ p.log2 := (Nat.le_log2 hne).mpr (not_lt.mp hbig)
      have hhigh : p.log2 < k + 1 := (Nat.log2_lt hne).mpr hp
      exact ih _ ((xor_reductionPolynomial_lt hne (Nat.add_sub_of_le hlow).symm).trans_le
        (Nat.pow_le_pow_right two_pos (Nat.le_of_lt_succ hhigh)))

theorem residue_polymodLoop (k p : Nat) : residue (polymodLoop k p) = residue p := by
  induction k generalizing p with
  | zero => rfl
  | succ k ih =>
    rw [polymodLoop]
    split
    · rfl
    · rw [ih, residue_xor, residue_shiftLeft, residue_reductionPolynomial, zero_mul, add_zero]

theorem polymod_lt (p : Nat) : polymod p < 2 ^ 191 := polymodLoop_lt _ p (lt_two_pow_bitLength p)

@[simp] theorem residue_polymod (p : Nat) : residue (polymod p) = residue p := residue_polymodLoop _ p

/-- The remainder is the one bit vector below 2^191 with its residue. -/
theorem eq_polymod {m p : Nat} (hm : m < 2 ^ 191) (h : residue m = residue p) : m = polymod p :=
  eq_of_residue_eq hm (polymod_lt p) (h.trans (residue_polymod p).symm)

theorem polymod_eq_polymod {p q : Nat} : polymod p = polymod q ↔ residue p = residue q :=
  ⟨fun h => by rw [← residue_polymod p, h, residue_polymod],
    fun h => eq_polymod (polymod_lt p) ((residue_polymod p).trans h)⟩

/-! ### Elements -/

/-- The residue an element stands for. -/
noncomputable def fieldOf (e : Elem) : ResidueRing := residue e.toNat

theorem residue_elem (e : Elem) : residue e.toNat = fieldOf e := rfl

theorem fieldOf_injective : Function.Injective fieldOf := fun a b h =>
  BitVec.eq_of_toNat_eq (eq_of_residue_eq a.isLt b.isLt h)

@[simp] theorem fieldOf_zeroElem : fieldOf zeroElem = 0 := residue_zero

@[simp] theorem fieldOf_oneElem : fieldOf oneElem = 1 := residue_one

theorem fieldOf_eq_zero {e : Elem} : fieldOf e = 0 ↔ e = zeroElem := by
  rw [← fieldOf_zeroElem, fieldOf_injective.eq_iff]

@[simp] theorem fieldOf_xor (a b : Elem) : fieldOf (a ^^^ b) = fieldOf a + fieldOf b := by
  rw [fieldOf, BitVec.toNat_xor, residue_xor, fieldOf, fieldOf]

@[simp] theorem fieldOf_fieldAdd (a b : Elem) : fieldOf (fieldAdd a b) = fieldOf a + fieldOf b :=
  fieldOf_xor a b

/-- An element with the residue of `p` is the remainder of `p`. -/
theorem toNat_eq_polymod {e : Elem} {p : Nat} (h : fieldOf e = residue p) : e.toNat = polymod p :=
  eq_polymod e.isLt h

end Sys2Proof.Machine
end

section
/-! MUL (spec/42_multiply.md): the shift with its fold is a multiplication by X, so the multiplier's loop sums
the product's terms, MUL is the product of residues, and the laws of R90 are the ring's. -/

namespace Sys2Proof.Machine

/-! ### Cutting a longer vector to an element -/

/-- A vector with every bit from `k` up clear is below 2^k. -/
theorem toNat_lt_of_clear {v k : Nat} {w : BitVec v} (h : ∀ i, k ≤ i → w.getLsbD i = false) :
    w.toNat < 2 ^ k :=
  Nat.lt_pow_two_of_testBit _ fun i hi => by rw [BitVec.testBit_toNat, h i hi]

/-- Cutting off clear bits keeps the residue. -/
theorem fieldOf_setWidth {v : Nat} {w : BitVec v} (h : w.toNat < 2 ^ 191) :
    fieldOf (w.setWidth 191) = residue w.toNat := by
  rw [fieldOf, BitVec.toNat_setWidth, Nat.mod_eq_of_lt h]

/-! ### Multiplication by X -/

/-- The element shifted left by one, before the fold (R85). -/
def shifted (e : Elem) : Wide := e.setWidth 192 <<< 1

/-- The shifted element after the fold (R85, R87). -/
def folded (e : Elem) : Wide :=
  if (shifted e).getLsbD 191 then shifted e ^^^ reductionPolynomial else shifted e

theorem timesX_eq (e : Elem) : timesX e = (folded e).setWidth 191 := rfl

theorem shifted_toNat (e : Elem) : (shifted e).toNat = e.toNat <<< 1 := by
  have he := e.isLt
  rw [shifted, BitVec.toNat_shiftLeft, BitVec.toNat_setWidth_of_le (by decide), Nat.mod_eq_of_lt]
  rw [Nat.shiftLeft_eq]
  omega

theorem shifted_getLsbD (e : Elem) {i : Nat} (hi : i < 192) :
    (shifted e).getLsbD i = (decide (1 ≤ i) && e.getLsbD (i - 1)) := by
  simp [shifted, hi, Nat.one_le_iff_ne_zero]

theorem reductionPolynomial_getLsbD {i : Nat} (hi : i < 191) :
    reductionPolynomial.getLsbD i = (i == 0 || i == 9) := by
  rw [← BitVec.testBit_toNat, reductionPolynomial_toNat, Nat.testBit_xor, Nat.testBit_xor,
    Nat.testBit_two_pow, Nat.testBit_two_pow, Nat.testBit_two_pow]
  grind

theorem folded_getLsbD (e : Elem) (i : Nat) :
    (folded e).getLsbD i
      = ((shifted e).getLsbD i ^^ (reductionPolynomial.getLsbD i && (shifted e).getLsbD 191)) := by
  unfold folded
  split
  · next h => rw [BitVec.getLsbD_xor, h, Bool.and_true]
  · next h => rw [Bool.eq_false_iff.mpr h, Bool.and_false, Bool.xor_false]

theorem folded_lt (e : Elem) : (folded e).toNat < 2 ^ 191 := by
  refine toNat_lt_of_clear fun i hi => ?_
  obtain rfl | hi : i = 191 ∨ 192 ≤ i := by omega
  · have htop : reductionPolynomial.getLsbD 191 = true := by decide
    rw [folded_getLsbD, htop, Bool.true_and, Bool.xor_self]
  · exact BitVec.getLsbD_of_ge _ i hi

theorem residue_folded (e : Elem) : residue (folded e).toNat = fieldOf e * xRes := by
  have hshift : residue (shifted e).toNat = fieldOf e * xRes := by
    rw [shifted_toNat, residue_shiftLeft, pow_one, fieldOf]
  unfold folded
  split
  · rw [BitVec.toNat_xor, residue_xor, residue_reductionPolynomial, add_zero, hshift]
  · exact hshift

@[simp] theorem fieldOf_timesX (e : Elem) : fieldOf (timesX e) = fieldOf e * xRes := by
  rw [timesX_eq, fieldOf_setWidth (folded_lt e), residue_folded]

/-! ### The multiplier's loop -/

/-- What `i` steps of the multiplier have reached: MA is a times X^i, MACC the terms of the low `i` bits. -/
structure MulReached (a b : Elem) (i : Nat) (u : MulRegs) : Prop where
  mi : u.mi.toNat = i
  ma : fieldOf u.ma = fieldOf a * xRes ^ i
  macc : fieldOf u.macc = fieldOf a * residue (b.toNat % 2 ^ i)

theorem MulReached.start (a b : Elem) : MulReached a b 0 (mulStart a) :=
  ⟨rfl, by simp [mulStart], by simp [mulStart, Nat.mod_one]⟩

/-- One step, while MI is not past the last bit. -/
theorem MulReached.step {a b : Elem} {i : Nat} {u : MulRegs} (h : MulReached a b i u) (hi : i < 191) :
    MulReached a b (i + 1) (mulStep b u) := by
  have hmi : u.mi ≤ 190#8 := by
    rw [BitVec.le_def, h.mi]
    exact Nat.le_of_lt_succ hi
  rw [mulStep, if_pos hmi]
  refine ⟨?_, ?_, ?_⟩
  · simp only [BitVec.toNat_add, BitVec.toNat_ofNat, h.mi]
    omega
  · rw [fieldOf_timesX, h.ma, mul_assoc, pow_succ]
  · rw [residue_mod_two_pow_succ, BitVec.testBit_toNat, ← h.mi, mul_add, h.mi]
    split
    · rw [fieldOf_xor, h.ma, h.macc]
    · rw [h.macc, mul_zero, add_zero]

theorem mulReached_repeatStep (a b : Elem) {i : Nat} (hi : i ≤ 191) :
    MulReached a b i (repeatStep (mulStep b) i (mulStart a)) := by
  induction i with
  | zero => exact .start a b
  | succ i ih =>
    rw [repeatStep_succ']
    exact (ih (Nat.le_of_succ_le hi)).step hi

/-- The function's loop and the unit's steps compute the same MACC (R85, R86). -/
theorem mulLoop_eq_macc (b : Elem) (k i : Nat) (acc sa : Elem) (h : i + k ≤ 191) :
    mulLoop b k i acc sa = (repeatStep (mulStep b) k ⟨acc, sa, BitVec.ofNat 8 i⟩).macc := by
  induction k generalizing i acc sa with
  | zero => rfl
  | succ k ih =>
    have hmi : (BitVec.ofNat 8 i).toNat = i := by
      rw [BitVec.toNat_ofNat]
      exact Nat.mod_eq_of_lt (by omega)
    have hle : BitVec.ofNat 8 i ≤ 190#8 := by
      rw [BitVec.le_def, hmi]
      change i ≤ 190
      omega
    rw [mulLoop, ih _ _ _ (by omega), repeatStep_succ, mulStep, if_pos hle, hmi, BitVec.ofNat_add]

theorem fieldMul_eq_macc (a b : Elem) : fieldMul a b = (mulFinish a b).macc :=
  mulLoop_eq_macc b 191 0 zeroElem a (Nat.le_refl 191)

/-- MUL is the product of residues. -/
@[simp] theorem fieldOf_fieldMul (a b : Elem) : fieldOf (fieldMul a b) = fieldOf a * fieldOf b := by
  rw [fieldMul_eq_macc, mulFinish, (mulReached_repeatStep a b (Nat.le_refl 191)).macc,
    Nat.mod_eq_of_lt b.isLt, fieldOf, fieldOf]

/-- A finished multiplier stays. -/
theorem mulStep_of_finished {b : Elem} {u : MulRegs} (h : u.mi = 191#8) : mulStep b u = u := by
  rw [mulStep, h, if_neg (by decide)]

theorem repeatStep_mulStep_add (a b : Elem) (k : Nat) :
    repeatStep (mulStep b) (191 + k) (mulStart a) = mulFinish a b := by
  rw [repeatStep_add]
  refine repeatStep_of_fixed _ k _ (mulStep_of_finished (BitVec.eq_of_toNat_eq ?_))
  exact (mulReached_repeatStep a b (Nat.le_refl 191)).mi

/-- On its way the multiplier is finished exactly when MI says so. -/
theorem repeatStep_mulStep_of_mi {a b : Elem} {k : Nat}
    (h : (repeatStep (mulStep b) k (mulStart a)).mi = 191#8) :
    repeatStep (mulStep b) k (mulStart a) = mulFinish a b := by
  obtain hk | hk := Nat.le_total k 191
  · have hmi := (mulReached_repeatStep a b hk).mi
    rw [h] at hmi
    rw [← hmi]
    rfl
  · obtain ⟨j, rfl⟩ := Nat.exists_eq_add_of_le hk
    exact repeatStep_mulStep_add a b j

/-! ### The laws of MUL -/

section
variable (a b c : Elem)

theorem fieldMul_oneElem : fieldMul a oneElem = a := fieldOf_injective (by simp)

theorem fieldMul_comm : fieldMul a b = fieldMul b a := fieldOf_injective (by simp [mul_comm])

theorem fieldMul_assoc : fieldMul (fieldMul a b) c = fieldMul a (fieldMul b c) :=
  fieldOf_injective (by simp [mul_assoc])

theorem fieldMul_fieldAdd : fieldMul (fieldAdd a b) c = fieldAdd (fieldMul a c) (fieldMul b c) :=
  fieldOf_injective (by simp [add_mul])

end

/-! ### The obligations -/

/-- Settles O41: the shift moves every bit up, and the fold inverts the bits of R below 191. -/
theorem timesXBitByBit : Obligations.TimesXBitByBit := by
  intro e i hi
  rw [timesX_eq, BitVec.getLsbD_setWidth, folded_getLsbD, shifted_getLsbD e (by omega),
    shifted_getLsbD e (by decide), reductionPolynomial_getLsbD hi]
  simp [hi]

/-- Settles O42: the loop's residues, each of which has one remainder. -/
theorem multiplierLoopInvariant : Obligations.MultiplierLoopInvariant := by
  intro a b i hi
  have h := mulReached_repeatStep a b hi
  refine ⟨h.mi, toNat_eq_polymod ?_, toNat_eq_polymod ?_⟩
  · rw [h.ma, residue_shiftLeft, fieldOf]
  · rw [h.macc, residue_clmulLow, fieldOf]

/-- Settles O43: MUL and the carry-less product have one residue. -/
theorem mulIsTheReducedProduct : Obligations.MulIsTheReducedProduct := fun a b =>
  toNat_eq_polymod (by rw [fieldOf_fieldMul, residue_clmul, fieldOf, fieldOf])

/-- Settles O44: the ring's laws, carried back by the injection of the elements into the residues. -/
theorem mulRingLaws : Obligations.MulRingLaws := fun a b c =>
  ⟨fieldMul_oneElem a, fieldMul_comm a b, fieldMul_assoc a b c, fieldMul_fieldAdd a b c⟩

/-- Settles O36: `k` steps are on the way to the end, and the end is not left. -/
theorem multiplierEndsWithTheProduct : Obligations.MultiplierEndsWithTheProduct := by
  intro s htracked hbusy hop
  obtain ⟨hmul, -⟩ := htracked hbusy
  obtain ⟨k, hk⟩ := hmul hop
  rw [hk, ← repeatStep_add, Nat.add_comm, repeatStep_mulStep_add, fieldMul_eq_macc]
  exact ⟨rfl, fun hmi => by rw [repeatStep_mulStep_of_mi hmi]⟩

end Sys2Proof.Machine
end

section
/-! SQR (spec/43_square.md): spreading the bits squares the polynomial, each fold of the scan keeps the residue
and clears the top position, so SQR is the square of the residue. -/

set_option exponentiation.threshold 400

namespace Sys2Proof.Machine

open Polynomial

/-! ### The spread -/

theorem spreadLow_getLsbD (a : Elem) {k : Nat} (hk : k ≤ 191) (i : Nat) :
    (spreadLow a k).getLsbD i = (decide (i % 2 = 0) && (decide (i / 2 < k) && a.getLsbD (i / 2))) := by
  induction k with
  | zero => simp [spreadLow]
  | succ k ih =>
    have hbit : (BitVec.twoPow 383 (2 * k)).getLsbD i = decide (i = 2 * k) := by
      rw [BitVec.getLsbD_twoPow]
      grind
    rw [spreadLow]
    split
    · rw [BitVec.getLsbD_or, ih (by omega), hbit]
      grind
    · rw [ih (by omega)]
      grind

/-- The even bits of the spread are the bits of the element, the odd ones are clear (R95). -/
theorem spread_getLsbD (a : Elem) (i : Nat) :
    (spread a).getLsbD i = (decide (i % 2 = 0) && a.getLsbD (i / 2)) := by
  rw [spread, spreadLow_getLsbD a (Nat.le_refl 191)]
  obtain h | h := Nat.lt_or_ge (i / 2) 191
  · simp [h]
  · simp [BitVec.getLsbD_of_ge a _ h]

/-- Spreading the bits squares the polynomial, in characteristic 2. -/
theorem polyOf_spread (a : Elem) : polyOf (spread a).toNat = polyOf a.toNat ^ 2 := by
  rw [← ZMod.expand_card]
  ext i
  rw [coeff_expand two_pos, polyOf_coeff, polyOf_coeff, BitVec.testBit_toNat, BitVec.testBit_toNat,
    spread_getLsbD, ite_cond_congr (Nat.dvd_iff_mod_eq_zero.eq)]
  by_cases h : i % 2 = 0 <;> simp [h]

theorem residue_spread (a : Elem) : residue (spread a).toNat = fieldOf a ^ 2 := by
  rw [residue, polyOf_spread, map_pow, fieldOf, residue]

/-! ### One fold -/

/-- R at position `i` of the scan. -/
theorem reductionPolynomial_at_toNat {i : Nat} (hi : i ≤ 382) :
    (reductionPolynomial.setWidth 383 <<< (i - 191)).toNat = reductionPolynomial.toNat <<< (i - 191) := by
  have hlt : reductionPolynomial.toNat <<< (i - 191) < 2 ^ 383 := by
    rw [Nat.shiftLeft_eq]
    calc reductionPolynomial.toNat * 2 ^ (i - 191) ≤ reductionPolynomial.toNat * 2 ^ 191 :=
          Nat.mul_le_mul_left _ (Nat.pow_le_pow_right two_pos (by omega))
      _ < 2 ^ 383 := by decide
  rw [BitVec.toNat_shiftLeft, BitVec.toNat_setWidth_of_le (by decide), Nat.mod_eq_of_lt hlt]

theorem foldAt_of_clear {i : Nat} {w : BitVec 383} (h : w.getLsbD i = false) : foldAt i w = w := by
  simp [foldAt, h]

theorem residue_foldAt {i : Nat} (hi : i ≤ 382) (w : BitVec 383) :
    residue (foldAt i w).toNat = residue w.toNat := by
  unfold foldAt
  split
  · rw [BitVec.toNat_xor, reductionPolynomial_at_toNat hi, residue_xor, residue_shiftLeft,
      residue_reductionPolynomial, zero_mul, add_zero]
  · rfl

/-- A fold at the top position clears it (R97). -/
theorem foldAt_lt {i : Nat} (hlow : 191 ≤ i) (hhigh : i ≤ 382) {w : BitVec 383}
    (h : w.toNat < 2 ^ (i + 1)) : (foldAt i w).toNat < 2 ^ i := by
  unfold foldAt
  split
  · next hbit =>
    have hge : 2 ^ i ≤ w.toNat := Nat.ge_two_pow_of_testBit (by rwa [BitVec.testBit_toNat])
    have hne : w.toNat ≠ 0 := ((pow_pos two_pos i).trans_le hge).ne'
    have hlog : w.toNat.log2 = i := (Nat.log2_eq_iff hne).mpr ⟨hge, h⟩
    have hlt := xor_reductionPolynomial_lt hne (hlog.trans (Nat.add_sub_of_le hlow).symm)
    rw [hlog] at hlt
    rwa [BitVec.toNat_xor, reductionPolynomial_at_toNat hhigh]
  · next hbit =>
    refine Nat.lt_pow_two_of_testBit _ fun j hj => ?_
    obtain rfl | hj : j = i ∨ i + 1 ≤ j := by omega
    · rw [BitVec.testBit_toNat, Bool.eq_false_iff.mpr hbit]
    · exact Nat.testBit_lt_two_pow (h.trans_le (Nat.pow_le_pow_right two_pos hj))

/-! ### The scan -/

/-- What `k` steps of the squarer have reached: the positions from 383 - k up are clear, and the residue is the
square. -/
structure SqrReached (a : Elem) (k : Nat) (u : SqrRegs) : Prop where
  si : u.si.toNat = 382 - k
  sw_lt : u.sw.toNat < 2 ^ (383 - k)
  residue_sw : residue u.sw.toNat = fieldOf a ^ 2

theorem SqrReached.start (a : Elem) : SqrReached a 0 (sqrStart a) :=
  ⟨rfl, (spread a).isLt, residue_spread a⟩

/-- A position of the scan, as SI holds it. -/
theorem si_toNat {i : Nat} (hi : i ≤ 382) : (BitVec.ofNat 9 i).toNat = i := by
  rw [BitVec.toNat_ofNat]
  exact Nat.mod_eq_of_lt (by omega)

theorem sqrStep_of_si {u : SqrRegs} (h : 191 ≤ u.si.toNat) :
    sqrStep u = ⟨foldAt u.si.toNat u.sw, u.si - 1#9⟩ := by
  rw [sqrStep, if_pos (show 191#9 ≤ u.si from h)]

theorem SqrReached.step {a : Elem} {k : Nat} {u : SqrRegs} (h : SqrReached a k u) (hk : k < 192) :
    SqrReached a (k + 1) (sqrStep u) := by
  have hsi := h.si
  have hpos : 383 - k = u.si.toNat + 1 := by omega
  rw [sqrStep_of_si (by omega)]
  refine ⟨?_, ?_, ?_⟩
  · simp only [BitVec.toNat_sub, BitVec.toNat_ofNat]
    omega
  · have hlt := foldAt_lt (by omega) (by omega) (hpos ▸ h.sw_lt)
    rwa [show 383 - (k + 1) = u.si.toNat by omega]
  · rw [residue_foldAt (by omega), h.residue_sw]

theorem sqrReached_repeatStep (a : Elem) {k : Nat} (hk : k ≤ 192) :
    SqrReached a k (repeatStep sqrStep k (sqrStart a)) := by
  induction k with
  | zero => exact .start a
  | succ k ih =>
    rw [repeatStep_succ']
    exact (ih (Nat.le_of_succ_le hk)).step hk

/-- The function's scan and the unit's steps compute the same SW (R95, R96). -/
theorem foldDown_eq_sw (k : Nat) (w : BitVec 383) (hk : k ≤ 192) :
    foldDown k w = (repeatStep sqrStep k ⟨w, BitVec.ofNat 9 (190 + k)⟩).sw := by
  induction k generalizing w with
  | zero => rfl
  | succ k ih =>
    have hsi : (BitVec.ofNat 9 (190 + (k + 1))).toNat = 191 + k := (si_toNat (by omega)).trans (by omega)
    have hnext : BitVec.ofNat 9 (190 + (k + 1)) - 1#9 = BitVec.ofNat 9 (190 + k) := by
      rw [← Nat.add_assoc, BitVec.ofNat_add, BitVec.add_sub_cancel]
    rw [foldDown, ih _ (by omega), repeatStep_succ, sqrStep_of_si (by dsimp only; omega), hsi, hnext]

theorem fieldSqr_eq_sw (a : Elem) : fieldSqr a = (sqrFinish a).sw.setWidth 191 := by
  rw [fieldSqr, foldDown_eq_sw 192 _ (Nat.le_refl 192)]
  rfl

/-- SQR is the square of the residue. -/
@[simp] theorem fieldOf_fieldSqr (a : Elem) : fieldOf (fieldSqr a) = fieldOf a ^ 2 := by
  have h := sqrReached_repeatStep a (Nat.le_refl 192)
  rw [fieldSqr_eq_sw, sqrFinish, fieldOf_setWidth h.sw_lt, h.residue_sw]

/-- The spread leaves positions 381 and 382 clear, so the scan may start at 380 (conflict C3). -/
theorem foldDown_spread (a : Elem) : foldDown 190 (spread a) = foldDown 192 (spread a) := by
  have h382 : (spread a).getLsbD 382 = false := by
    rw [spread_getLsbD, BitVec.getLsbD_of_ge a _ (by decide), Bool.and_false]
  have h381 : (spread a).getLsbD 381 = false := spread_getLsbD a 381
  have htwo : foldDown 192 (spread a) = foldDown 190 (foldAt 381 (foldAt 382 (spread a))) := by
    rw [foldDown, foldDown]
  rw [htwo, foldAt_of_clear h382, foldAt_of_clear h381]

/-! ### The squarer at its end -/

theorem sqrStep_of_finished {u : SqrRegs} (h : u.si = 190#9) : sqrStep u = u := by
  rw [sqrStep, h, if_neg (by decide)]

theorem repeatStep_sqrStep_add (a : Elem) (k : Nat) :
    repeatStep sqrStep (192 + k) (sqrStart a) = sqrFinish a := by
  rw [repeatStep_add]
  refine repeatStep_of_fixed _ k _ (sqrStep_of_finished (BitVec.eq_of_toNat_eq ?_))
  exact (sqrReached_repeatStep a (Nat.le_refl 192)).si

/-- On its way the squarer is finished exactly when SI says so. -/
theorem repeatStep_sqrStep_of_si {a : Elem} {k : Nat}
    (h : (repeatStep sqrStep k (sqrStart a)).si = 190#9) :
    repeatStep sqrStep k (sqrStart a) = sqrFinish a := by
  obtain hk | hk := Nat.le_total k 192
  · have hsi := (sqrReached_repeatStep a hk).si
    rw [h, show (190#9).toNat = 190 from rfl] at hsi
    obtain rfl : k = 192 := by omega
    rfl
  · obtain ⟨j, rfl⟩ := Nat.exists_eq_add_of_le hk
    exact repeatStep_sqrStep_add a j

/-! ### The table of the basis -/

theorem fieldOf_twoPow {i : Nat} (hi : i < 191) : fieldOf (BitVec.twoPow 191 i) = xRes ^ i := by
  rw [fieldOf, BitVec.toNat_twoPow, Nat.mod_eq_of_lt (Nat.pow_lt_pow_right (by decide) hi),
    residue_two_pow]

/-- A power of X from 191 up folds to two lower ones. -/
theorem xRes_pow_fold {i : Nat} (hi : 191 ≤ i) : xRes ^ i = xRes ^ (i - 182) + xRes ^ (i - 191) := by
  obtain ⟨j, rfl⟩ := Nat.exists_eq_add_of_le hi
  have hhigh : 191 + j - 182 = 9 + j := by omega
  rw [hhigh, Nat.add_sub_cancel_left, pow_add, xRes_pow_191, add_mul, one_mul, pow_add]

/-- The rows of R100: no fold up to 95, one up to 186, two above. -/
theorem fieldOf_squareOfBasis {i : Nat} (hi : i < 191) :
    fieldOf (squareOfBasis i) = xRes ^ (2 * i) := by
  unfold squareOfBasis
  split_ifs with h95 h186
  · rw [fieldOf_twoPow (by omega)]
  · rw [fieldOf_xor, fieldOf_twoPow (by omega), fieldOf_twoPow (by omega),
      xRes_pow_fold (i := 2 * i) (by omega)]
  · rw [fieldOf_xor, fieldOf_xor, fieldOf_twoPow (by omega), fieldOf_twoPow (by omega),
      fieldOf_twoPow (by omega), xRes_pow_fold (i := 2 * i) (by omega),
      xRes_pow_fold (i := 2 * i - 182) (by omega)]
    rw [Nat.sub_sub, Nat.sub_sub]
    ring

/-- Squaring is additive in characteristic 2. -/
theorem residueRing_add_sq (y z : ResidueRing) : (y + z) ^ 2 = y ^ 2 + z ^ 2 := by
  calc (y + z) ^ 2 = y ^ 2 + z ^ 2 + (y * z + y * z) := by ring
    _ = y ^ 2 + z ^ 2 := by rw [residueRing_add_self, add_zero]

theorem fieldOf_squareByTable (a : Elem) {k : Nat} (hk : k ≤ 191) :
    fieldOf (squareByTable a k) = residue (a.toNat % 2 ^ k) ^ 2 := by
  induction k with
  | zero => simp [squareByTable, Nat.mod_one]
  | succ k ih =>
    rw [residue_mod_two_pow_succ, residueRing_add_sq, BitVec.testBit_toNat, squareByTable]
    split
    · rw [fieldOf_xor, ih (by omega), fieldOf_squareOfBasis (by omega), ← pow_mul, mul_comm 2 k]
    · rw [ih (by omega), zero_pow two_ne_zero, add_zero]

/-! ### The obligations -/

/-- Settles O46: the spread bit by bit, the invariant of the scan, and the two positions that are clear. -/
theorem squarerScanClearsFromTheTop : Obligations.SquarerScanClearsFromTheTop := by
  refine fun a => ⟨spread_getLsbD a, fun k hk => ?_, by rw [foldDown_spread, fieldSqr]⟩
  have h := sqrReached_repeatStep a hk
  refine ⟨h.si, fun i hi => ?_⟩
  rw [← BitVec.testBit_toNat]
  exact Nat.testBit_lt_two_pow (h.sw_lt.trans_le (Nat.pow_le_pow_right two_pos hi))

/-- Settles O48: row and square have one residue, and the rows add up as the squares of the bits. -/
theorem sqrByTheTable : Obligations.SqrByTheTable := by
  refine ⟨fun i hi => fieldOf_injective ?_, fun a => fieldOf_injective ?_⟩
  · rw [fieldOf_fieldSqr, fieldOf_twoPow hi, fieldOf_squareOfBasis hi, ← pow_mul, mul_comm]
  · rw [fieldOf_fieldSqr, fieldOf_squareByTable a (Nat.le_refl 191), Nat.mod_eq_of_lt a.isLt, fieldOf]

/-- Settles O37: `k` steps are on the way to the end, and the end is not left. -/
theorem squarerEndsWithTheSquare : Obligations.SquarerEndsWithTheSquare := by
  intro s htracked hbusy hop
  obtain ⟨-, hsqr, -⟩ := htracked hbusy
  obtain ⟨k, hk⟩ := hsqr hop
  rw [hk, ← repeatStep_add, Nat.add_comm, repeatStep_sqrStep_add, fieldSqr_eq_sw]
  exact ⟨rfl, fun hsi => by rw [repeatStep_sqrStep_of_si hsi]⟩

end Sys2Proof.Machine
end

section
/-! POW (spec/45_power.md): the engine keeps PR times PB to the PN, so POW is the power of the residue, and the
laws of R125 are those of powers. -/

namespace Sys2Proof.Machine

/-! ### The length of an exponent -/

theorem bitLength_le_iff {n k : Nat} : bitLength n ≤ k ↔ n < 2 ^ k := by
  unfold bitLength
  split
  · next h => simp [h]
  · next h => rw [Nat.succ_le_iff, Nat.log2_lt h]

theorem shiftRight_eq_zero_iff {n k : Nat} : n >>> k = 0 ↔ bitLength n ≤ k := by
  rw [bitLength_le_iff, Nat.shiftRight_eq_div_pow, Nat.div_eq_zero_iff_lt (pow_pos two_pos k)]

/-- The bits that pass position 0 while a number is shifted right are its low bits. -/
theorem countP_shiftRight_testBit (n k : Nat) :
    ((List.range k).countP fun j => (n >>> j).testBit 0) = popCountLow n k := by
  induction k with
  | zero => rfl
  | succ k ih =>
    rw [List.range_succ, List.countP_append, ih, List.countP_singleton, Nat.testBit_shiftRight, popCountLow]
    rfl

/-! ### The engine's loop -/

/-- The value the engine is on its way to: PR times PB to the PN. -/
noncomputable def PowRegs.value (u : PowRegs) : ResidueRing := fieldOf u.pr * fieldOf u.pb ^ u.pn

/-- Every step keeps the value: the low bit of PN goes into PR, the others stay with PB squared. -/
theorem value_powStep (u : PowRegs) : (powStep u).value = u.value := by
  unfold powStep
  split
  · rfl
  · have hpow : fieldOf u.pb ^ u.pn = fieldOf u.pb ^ (u.pn % 2) * (fieldOf u.pb ^ 2) ^ (u.pn >>> 1) := by
      rw [← pow_mul, ← pow_add, Nat.shiftRight_one, Nat.mod_add_div]
    obtain hbit | hbit := Nat.mod_two_eq_zero_or_one u.pn
    · simp [PowRegs.value, hpow, Nat.testBit_zero, hbit]
    · simp [PowRegs.value, hpow, Nat.testBit_zero, hbit, mul_assoc]

theorem value_repeatStep (a : Elem) (n k : Nat) :
    (repeatStep powStep k (powStart a n)).value = fieldOf a ^ n := by
  refine repeatStep_induct (fun u => u.value = fieldOf a ^ n) powStep
    (fun u hu => (value_powStep u).trans hu) k _ ?_
  simp [PowRegs.value, powStart]

/-- An engine on its way with PN = 0 holds the power in PR. -/
theorem fieldOf_pr_of_pn {a : Elem} {n k : Nat}
    (h : (repeatStep powStep k (powStart a n)).pn = 0) :
    fieldOf (repeatStep powStep k (powStart a n)).pr = fieldOf a ^ n := by
  rw [← value_repeatStep a n k, PowRegs.value, h, pow_zero, mul_one]

theorem repeatStep_powStart_pn (a : Elem) (n k : Nat) :
    (repeatStep powStep k (powStart a n)).pn = n >>> k := repeatStep_powStep_pn k (powStart a n)

theorem powStep_of_finished {u : PowRegs} (h : u.pn = 0) : powStep u = u := if_pos h

/-- The function's loop and the engine's steps compute the same PR (R120, R121). -/
theorem powLoop_eq_pr (k : Nat) (result base : Elem) (e : Nat) :
    powLoop k result base e = (repeatStep powStep k ⟨result, base, e⟩).pr := by
  induction k generalizing result base e with
  | zero => rfl
  | succ k ih =>
    by_cases he : e = 0
    · rw [powLoop, if_pos he, repeatStep_of_fixed _ _ _ (powStep_of_finished he)]
    · rw [powLoop, if_neg he, ih, repeatStep_succ, powStep, if_neg he]

theorem fieldPow_eq_pr (a : Elem) (n : Nat) : fieldPow a n = (powFinish a n).pr :=
  powLoop_eq_pr (bitLength n) oneElem a n

/-- POW is the power of the residue. -/
@[simp] theorem fieldOf_fieldPow (a : Elem) (n : Nat) : fieldOf (fieldPow a n) = fieldOf a ^ n := by
  have hpn : (powFinish a n).pn = 0 := by
    rw [powFinish, repeatStep_powStart_pn, shiftRight_eq_zero_iff]
  rw [fieldPow_eq_pr]
  exact fieldOf_pr_of_pn hpn

/-- The product of `n` copies is the power of the residue. -/
@[simp] theorem fieldOf_foldProduct (a : Elem) (n : Nat) :
    fieldOf (foldProduct a n) = fieldOf a ^ n := by
  induction n with
  | zero => exact fieldOf_oneElem
  | succ n ih => rw [foldProduct, fieldOf_fieldMul, ih, pow_succ]

/-! ### The laws of POW -/

section
variable (a : Elem) (m n : Nat)

theorem fieldPow_add : fieldPow a (m + n) = fieldMul (fieldPow a m) (fieldPow a n) :=
  fieldOf_injective (by simp [pow_add])

theorem fieldPow_zero : fieldPow a 0 = oneElem := fieldOf_injective (by simp)

theorem fieldPow_one : fieldPow a 1 = a := fieldOf_injective (by simp)

theorem fieldPow_oneElem : fieldPow oneElem n = oneElem := fieldOf_injective (by simp)

theorem fieldPow_zeroElem (hn : 1 ≤ n) : fieldPow zeroElem n = zeroElem :=
  fieldOf_injective (by simp [Nat.one_le_iff_ne_zero.mp hn])

theorem fieldPow_eq_foldProduct : fieldPow a n = foldProduct a n := fieldOf_injective (by simp)

end

/-! ### The obligations -/

/-- Settles O53: the empty power is ONE, and a power of zero with a factor is zero. -/
theorem powZeroConventions : Obligations.PowZeroConventions :=
  ⟨fieldPow_zero, fieldPow_zeroElem⟩

/-- Settles O54: the laws of powers of the residue, and the value the engine keeps. -/
theorem powLaws : Obligations.PowLaws := by
  intro a m n
  refine ⟨fieldPow_add a m n, fieldPow_zero a, fieldPow_one a, fieldPow_oneElem n,
    fieldPow_eq_foldProduct a n, fun k => fieldOf_injective ?_⟩
  rw [fieldOf_fieldMul, fieldOf_foldProduct, fieldOf_foldProduct]
  exact value_repeatStep a n k

/-- Settles O55: PN is the exponent shifted right once per step. -/
theorem engineStepCount : Obligations.EngineStepCount := by
  intro a n
  have hpn := repeatStep_powStart_pn a n
  refine ⟨hpn, fun k => ?_, ?_, fun _ => bitLength_le_iff.mpr⟩
  · rw [hpn, shiftRight_eq_zero_iff]
  · simp only [hpn, countP_shiftRight_testBit]

/-- Settles O38: whenever PN is 0 on the way PR holds the power, and enough steps make it 0. -/
theorem engineEndsWithThePower : Obligations.EngineEndsWithThePower := by
  intro s htracked hbusy hop
  obtain ⟨-, -, -, hpow⟩ := htracked hbusy
  obtain ⟨k, hk⟩ := hpow hop
  have hpower {j : Nat} (hpn : (repeatStep powStep j (powStart s.opa s.opn)).pn = 0) :
      (repeatStep powStep j (powStart s.opa s.opn)).pr = fieldPow s.opa s.opn :=
    fieldOf_injective (by rw [fieldOf_pr_of_pn hpn, fieldOf_fieldPow])
  rw [hk, ← repeatStep_add]
  refine ⟨hpower ?_, hpower⟩
  rw [repeatStep_powStart_pn, shiftRight_eq_zero_iff]
  exact Nat.le_add_left _ _

end Sys2Proof.Machine
end

section
/-! f is irreducible (R2, R112), so the residues are a field: 191 is prime, f has no root in GF(2), and 191
squarings take X to itself modulo f. The consequences are those of spec/93_implementation_defined.md section 2
and R99, and the exponent of Frobenius. -/

namespace Sys2Proof.Machine

open Polynomial

/-! ### A test of irreducibility -/

/-- A polynomial over GF(2) of prime degree `m` without a root, modulo which `m` squarings fix X, is
irreducible: the degree of a factor divides `m`, and 1 is excluded. -/
theorem irreducible_of_dvd_frobenius {f : (ZMod 2)[X]} {m : Nat} (hm : m.Prime) (hdeg : f.natDegree = m)
    (hroot : ∀ c, ¬ f.IsRoot c) (hfrob : f ∣ X ^ 2 ^ m - X) : Irreducible f := by
  obtain ⟨g, hg, hgf⟩ := exists_irreducible_of_natDegree_ne_zero (hdeg.trans_ne hm.ne_zero)
  have hdvd : g.natDegree ∣ m := hg.natDegree_dvd_of_dvd_X_pow_card_pow_sub_X
    (by rw [Nat.card_zmod]; exact hgf.trans hfrob)
  have hf : f ≠ 0 := by
    rintro rfl
    exact hm.ne_zero (hdeg.symm.trans natDegree_zero)
  obtain hone | htop := (Nat.dvd_prime hm).mp hdvd
  · obtain ⟨c, hc⟩ := exists_root_of_degree_eq_one ((degree_eq_iff_natDegree_eq_of_pos one_pos).mpr hone)
    exact absurd (hc.dvd hgf) (hroot c)
  · exact (associated_of_dvd_of_natDegree_le hgf hf (hdeg.trans_le htop.ge)).irreducible hg

/-! ### Squaring by shifts

The same square as SQR's, with few enough operations to run 191 of them in a proof. -/

/-- The low `k` bits of `n` spread out, the rest squared by the carry-less product. -/
def spreadBits : Nat → Nat → Nat
  | 0, n => clmul n n
  | k + 1, n => (n % 2) ^^^ (spreadBits k (n >>> 1) <<< 2)

/-- Everything from bit 191 up folded into bits 9 and 0 once. -/
def foldHigh (n : Nat) : Nat := (n % 2 ^ 191) ^^^ (n >>> 191) ^^^ (n >>> 191 <<< 9)

/-- A square modulo f. -/
def squareMod (n : Nat) : Nat := foldHigh (foldHigh (spreadBits 191 n))

theorem residue_spreadBits (k n : Nat) : residue (spreadBits k n) = residue n ^ 2 := by
  induction k generalizing n with
  | zero => rw [spreadBits, residue_clmul, sq]
  | succ k ih =>
    have hlow : residue (n % 2) ^ 2 = residue (n % 2) := by
      obtain h | h := Nat.mod_two_eq_zero_or_one n <;> simp [h]
    rw [spreadBits, residue_xor, residue_shiftLeft, ih, residue_split n 1, residueRing_add_sq, pow_one,
      hlow, mul_pow, pow_one]

theorem residue_foldHigh (n : Nat) : residue (foldHigh n) = residue n := by
  rw [foldHigh, residue_xor, residue_xor, residue_shiftLeft, residue_split n 191, xRes_pow_191]
  ring

theorem residue_squareMod (n : Nat) : residue (squareMod n) = residue n ^ 2 := by
  rw [squareMod, residue_foldHigh, residue_foldHigh, residue_spreadBits]

theorem residue_repeatStep_squareMod (k n : Nat) :
    residue (repeatStep squareMod k n) = residue n ^ 2 ^ k := by
  induction k with
  | zero => simp
  | succ k ih => rw [repeatStep_succ', residue_squareMod, ih, ← pow_mul, ← pow_succ]

/-! ### f is irreducible -/

set_option maxRecDepth 10000 in
/-- The computation behind the test: 191 squarings bring X back. -/
theorem repeatStep_squareMod_two : repeatStep squareMod 191 2 = 2 := by decide

theorem xRes_pow_of_repeatStep {m : Nat} (h : repeatStep squareMod m 2 = 2) : xRes ^ 2 ^ m = xRes := by
  have hx : residue 2 = xRes := by simpa using residue_two_pow 1
  rw [← hx, ← residue_repeatStep_squareMod, h]

theorem xRes_frobenius : xRes ^ 2 ^ 191 = xRes := xRes_pow_of_repeatStep repeatStep_squareMod_two

/-- Both residues modulo 2 are their own powers. -/
theorem zmod_two_pow (c : ZMod 2) {k : Nat} (hk : k ≠ 0) : c ^ k = c := by
  have hc : c = 0 ∨ c = 1 := by
    revert c
    decide
  obtain rfl | rfl := hc
  · exact zero_pow hk
  · exact one_pow k

theorem fieldPoly_not_isRoot (c : ZMod 2) : ¬ fieldPoly.IsRoot c := by
  have heval : eval c fieldPoly = 1 := by
    rw [fieldPoly_eq, eval_add, eval_add, eval_pow, eval_pow, eval_X, eval_one,
      zmod_two_pow c (by decide), zmod_two_pow c (by decide), CharTwo.add_self_eq_zero, zero_add]
  rw [IsRoot, heval]
  exact one_ne_zero

theorem fieldPoly_dvd_of_xRes {m : Nat} (h : xRes ^ 2 ^ m = xRes) : fieldPoly ∣ X ^ 2 ^ m - X := by
  rwa [← AdjoinRoot.mk_eq_mk, map_pow, AdjoinRoot.mk_X]

theorem irreducible_fieldPoly : Irreducible fieldPoly :=
  irreducible_of_dvd_frobenius (by norm_num) (natDegree_eq_of_degree_eq_some fieldPoly_degree)
    fieldPoly_not_isRoot (fieldPoly_dvd_of_xRes xRes_frobenius)

/-! ### The residues are a field -/

theorem residueRing_mul_eq_zero {y z : ResidueRing} : y * z = 0 ↔ y = 0 ∨ z = 0 := by
  have : Fact (Irreducible fieldPoly) := ⟨irreducible_fieldPoly⟩
  exact mul_eq_zero

theorem residueRing_mul_left_cancel {y z₁ z₂ : ResidueRing} (hy : y ≠ 0) (h : y * z₁ = y * z₂) :
    z₁ = z₂ := by
  have : Fact (Irreducible fieldPoly) := ⟨irreducible_fieldPoly⟩
  exact mul_left_cancel₀ hy h

/-- Frobenius taken `m` times is an algebra map, so where it fixes X it fixes every residue. -/
theorem residueRing_pow_of_xRes {m : Nat} (h : xRes ^ 2 ^ m = xRes) (z : ResidueRing) : z ^ 2 ^ m = z := by
  have hpow (y : ResidueRing) : (FiniteField.frobeniusAlgHom (ZMod 2) ResidueRing ^ m) y = y ^ 2 ^ m := by
    rw [AlgHom.coe_pow, FiniteField.coe_frobeniusAlgHom, ZMod.card, pow_iterate]
  have hid : FiniteField.frobeniusAlgHom (ZMod 2) ResidueRing ^ m = AlgHom.id (ZMod 2) ResidueRing :=
    AdjoinRoot.algHom_ext ((hpow xRes).trans h)
  rw [← hpow, hid, AlgHom.id_apply]

theorem residueRing_frobenius (z : ResidueRing) : z ^ 2 ^ 191 = z := residueRing_pow_of_xRes xRes_frobenius z

/-- The nonzero residues have the order 2^191 - 1. -/
theorem residueRing_pow_order {z : ResidueRing} (hz : z ≠ 0) : z ^ (2 ^ 191 - 1) = 1 := by
  refine residueRing_mul_left_cancel hz ?_
  rw [mul_pow_sub_one (pow_ne_zero 191 two_ne_zero), residueRing_frobenius, mul_one]

/-! ### The laws of SQR -/

section
variable {a b : Elem}

theorem fieldMul_eq_zeroElem : fieldMul a b = zeroElem ↔ a = zeroElem ∨ b = zeroElem := by
  rw [← fieldOf_eq_zero, fieldOf_fieldMul, residueRing_mul_eq_zero, fieldOf_eq_zero, fieldOf_eq_zero]

theorem fieldSqr_eq_fieldMul (a : Elem) : fieldSqr a = fieldMul a a := fieldOf_injective (by simp [sq])

theorem fieldSqr_fieldAdd (a b : Elem) : fieldSqr (fieldAdd a b) = fieldAdd (fieldSqr a) (fieldSqr b) :=
  fieldOf_injective (by simp [residueRing_add_sq])

theorem fieldSqr_eq_zeroElem (h : fieldSqr a = zeroElem) : a = zeroElem := by
  rw [fieldSqr_eq_fieldMul, fieldMul_eq_zeroElem, or_self] at h
  exact h

/-- Squares are distinct, since the square of a sum is the sum of the squares. -/
theorem fieldSqr_injective (h : fieldSqr a = fieldSqr b) : a = b := by
  have hsum : fieldSqr (fieldAdd a b) = zeroElem := by rw [fieldSqr_fieldAdd, h, fieldAdd_self]
  exact BitVec.xor_eq_zero_iff.mp (fieldSqr_eq_zeroElem hsum)

theorem spread_toNat (a : Elem) : (spread a).toNat = clmul a.toNat a.toNat :=
  polyOf_injective (by rw [polyOf_spread, polyOf_clmul, sq])

theorem fieldSqr_toNat (a : Elem) : (fieldSqr a).toNat = polymod (spread a).toNat :=
  toNat_eq_polymod (by rw [fieldOf_fieldSqr, residue_spread])

end

/-! ### The obligations -/

/-- Settles O45: the residues have no zero divisors. -/
theorem mulHasNoZeroDivisors : Obligations.MulHasNoZeroDivisors := fun _ _ => fieldMul_eq_zeroElem.mp

/-- Settles O47: the laws of the square of a residue, and the spread as a carry-less square. -/
theorem sqrLaws : Obligations.SqrLaws := fun a b =>
  ⟨fieldSqr_eq_fieldMul a, (fieldSqr_eq_fieldMul _).symm, fieldSqr_toNat a, spread_toNat a,
    fieldSqr_fieldAdd a b, fieldSqr_injective, fieldSqr_eq_zeroElem⟩

end Sys2Proof.Machine
end

section
/-! INV (spec/44_inverse.md): the Bézout relations, the determinant and the degree bounds hold before and after
every step of the inverter (R110 to R112), the degrees run out within 760 steps (R113), and EU then holds the
inverse (R115). -/

namespace Sys2Proof.Machine

open Polynomial

/-! ### Degrees of the registers -/

theorem toNat_ne_zero {w : Nat} {p : BitVec w} (hp : p ≠ 0#w) : p.toNat ≠ 0 :=
  fun h => hp (BitVec.eq_of_toNat_eq (h.trans BitVec.toNat_zero.symm))

theorem degree_of_ne_zero {w : Nat} {p : BitVec w} (hp : p ≠ 0#w) : degree p = p.toNat.log2 := if_neg hp

theorem log2_toNat_lt {w : Nat} {p : BitVec w} (hp : p ≠ 0#w) : p.toNat.log2 < w :=
  (Nat.log2_lt (toNat_ne_zero hp)).mpr p.isLt

/-- A register other than 0 and 1 has a degree of at least 1. -/
theorem one_le_log2 {w : Nat} {p : BitVec w} (hp : p ≠ 0#w) (hone : p ≠ 1#w) : 1 ≤ p.toNat.log2 := by
  have hne := toNat_ne_zero hp
  have hne' : p.toNat ≠ 1 := fun h => hone (BitVec.eq_of_toNat_eq (by
    have := p.isLt
    rw [h, BitVec.toNat_ofNat, Nat.mod_eq_of_lt (h ▸ this)]))
  rw [Nat.le_log2 hne]
  omega

theorem log2_shiftLeft_le (n j : Nat) : (n <<< j).log2 ≤ n.log2 + j := by
  rw [← polyOf_natDegree, ← polyOf_natDegree, polyOf_shiftLeft]
  exact natDegree_mul_le.trans_eq (by rw [natDegree_X_pow])

theorem log2_shiftLeft_of_ne_zero {n : Nat} (hn : n ≠ 0) (j : Nat) : (n <<< j).log2 = n.log2 + j := by
  rw [← polyOf_natDegree, polyOf_shiftLeft, natDegree_mul_X_pow _ (mt polyOf_eq_zero.mp hn),
    polyOf_natDegree]

theorem log2_xor_le (m n : Nat) : (m ^^^ n).log2 ≤ max m.log2 n.log2 := by
  rw [← polyOf_natDegree, ← polyOf_natDegree, ← polyOf_natDegree, polyOf_xor]
  exact natDegree_add_le _ _

theorem lt_two_pow_of_log2_lt {n k : Nat} (h : n.log2 < k) : n < 2 ^ k := by
  obtain rfl | hn := eq_or_ne n 0
  · exact Nat.two_pow_pos k
  · exact (Nat.log2_lt hn).mp h

theorem toNat_shiftLeft_of_log2 {w : Nat} {p : BitVec w} {j : Nat} (h : p.toNat.log2 + j < w) :
    (p <<< j).toNat = p.toNat <<< j := by
  rw [BitVec.toNat_shiftLeft,
    Nat.mod_eq_of_lt (lt_two_pow_of_log2_lt ((log2_shiftLeft_le _ _).trans_lt h))]

theorem mask191_toNat (p : Wide) : (mask191 p).toNat = p.toNat % 2 ^ 191 := by
  rw [mask191, BitVec.toNat_and, ← Nat.and_two_pow_sub_one_eq_mod]
  rfl

/-! ### What holds at every step -/

/-- The registers of an inverter on its way from a nonzero `a`: the relations of R111, the bounds that keep every
shift inside its register, and the values EA and EB never take (R110, R112). -/
structure InvReached (a : Elem) (r : InvRegs) : Prop where
  bezout_ea : residue r.ea.toNat = fieldOf r.eu * fieldOf a
  bezout_eb : residue r.eb.toNat = fieldOf r.ev * fieldOf a
  det : polyOf r.ea.toNat * polyOf r.ev.toNat + polyOf r.eb.toNat * polyOf r.eu.toNat = fieldPoly
  deg_ev : r.ea.toNat.log2 + r.ev.toNat.log2 ≤ 191
  deg_eu : r.eb.toNat.log2 + r.eu.toNat.log2 ≤ 191
  ea_ne_zero : r.ea ≠ 0#192
  eb_ne_zero : r.eb ≠ 0#192
  eb_ne_one : r.eb ≠ 1#192

theorem InvReached.start {a : Elem} (ha : a ≠ zeroElem) : InvReached a (invStart a) := by
  have hea : (invStart a).ea.toNat = a.toNat := BitVec.toNat_setWidth_of_le (by decide)
  have heb : reductionPolynomial ≠ 0#192 ∧ reductionPolynomial ≠ 1#192 := by decide
  refine ⟨?_, ?_, ?_, ?_, Nat.le_of_eq ?_, ?_, heb.1, heb.2⟩
  · rw [hea, invStart, fieldOf_oneElem, one_mul, fieldOf]
  · rw [invStart, residue_reductionPolynomial, fieldOf_zeroElem, zero_mul]
  · simp [invStart, fieldPoly]
  · have := log2_toNat_lt ha
    rw [hea]
    exact Nat.le_of_lt (this.trans_le (by decide))
  · have hone : oneElem.toNat.log2 = 0 := by decide
    rw [invStart, reductionPolynomial_log2, hone]
  · intro h
    exact toNat_ne_zero ha (hea.symm.trans (congrArg BitVec.toNat h))

section
variable {a : Elem} {r : InvRegs}

/-! ### The swap step -/

theorem euclidStep_of_lt (h : InvReached a r) (hlt : r.ea.toNat.log2 < r.eb.toNat.log2) :
    euclidStep r = { ea := r.eb, eb := r.ea, eu := r.ev, ev := r.eu } := by
  rw [euclidStep, degree_of_ne_zero h.ea_ne_zero, degree_of_ne_zero h.eb_ne_zero,
    if_pos (Int.ofNat_lt.mpr hlt)]

theorem InvReached.swap (h : InvReached a r) (hone : r.ea ≠ 1#192) :
    InvReached a { ea := r.eb, eb := r.ea, eu := r.ev, ev := r.eu } :=
  ⟨h.bezout_eb, h.bezout_ea, (add_comm _ _).trans h.det, h.deg_eu, h.deg_ev, h.eb_ne_zero, h.ea_ne_zero,
    hone⟩

/-! ### The exclusive-or step -/

/-- The shift that brings EB under the top bit of EA. -/
def InvRegs.gap (r : InvRegs) : Nat := r.ea.toNat.log2 - r.eb.toNat.log2

/-- The new EA of an exclusive-or step, before its mask. -/
def InvRegs.newEa (r : InvRegs) : Nat := r.ea.toNat ^^^ (r.eb.toNat <<< r.gap)

/-- The new EU of an exclusive-or step, before its mask. -/
def InvRegs.newEu (r : InvRegs) : Nat := r.eu.toNat ^^^ (r.ev.toNat <<< r.gap)

theorem degree_sub_toNat (h : InvReached a r) : (degree r.ea - degree r.eb).toNat = r.gap := by
  rw [degree_of_ne_zero h.ea_ne_zero, degree_of_ne_zero h.eb_ne_zero, Int.toNat_sub, InvRegs.gap]

theorem euclidStep_of_le (h : InvReached a r) (hle : r.eb.toNat.log2 ≤ r.ea.toNat.log2) :
    euclidStep r = { r with ea := mask191 (r.ea ^^^ (r.eb <<< r.gap)), eu := r.eu ^^^ (r.ev <<< r.gap) } := by
  have hnot : ¬ degree r.ea < degree r.eb := by
    rw [degree_of_ne_zero h.ea_ne_zero, degree_of_ne_zero h.eb_ne_zero, Int.ofNat_lt]
    exact hle.not_gt
  rw [euclidStep, if_neg hnot, degree_sub_toNat h]

/-- The top bits cancel (R109). -/
theorem newEa_lt (h : InvReached a r) (hle : r.eb.toNat.log2 ≤ r.ea.toNat.log2) :
    r.newEa < 2 ^ r.ea.toNat.log2 := by
  have hshift : (r.eb.toNat <<< r.gap).log2 = r.ea.toNat.log2 := by
    rw [log2_shiftLeft_of_ne_zero (toNat_ne_zero h.eb_ne_zero), InvRegs.gap]
    omega
  refine xor_lt_two_pow_of_log2_eq (toNat_ne_zero h.ea_ne_zero) ?_ hshift.symm
  rw [Nat.shiftLeft_eq]
  exact Nat.mul_ne_zero (toNat_ne_zero h.eb_ne_zero) (pow_ne_zero _ two_ne_zero)

theorem newEa_lt_two_pow_191 (h : InvReached a r) (hle : r.eb.toNat.log2 ≤ r.ea.toNat.log2) :
    r.newEa < 2 ^ 191 :=
  (newEa_lt h hle).trans_le (Nat.pow_le_pow_right two_pos (Nat.le_of_lt_succ (log2_toNat_lt h.ea_ne_zero)))

/-- The shifted EV stays within the room that EB leaves. -/
theorem log2_ev_add_gap (h : InvReached a r) (hle : r.eb.toNat.log2 ≤ r.ea.toNat.log2) :
    r.eb.toNat.log2 + (r.ev.toNat.log2 + r.gap) ≤ 191 := by
  have := h.deg_ev
  rw [InvRegs.gap]
  omega

theorem log2_newEu (h : InvReached a r) (hle : r.eb.toNat.log2 ≤ r.ea.toNat.log2) :
    r.eb.toNat.log2 + r.newEu.log2 ≤ 191 := by
  have hxor := log2_xor_le r.eu.toNat (r.ev.toNat <<< r.gap)
  have hshift := log2_shiftLeft_le r.ev.toNat r.gap
  have hev := log2_ev_add_gap h hle
  have heu := h.deg_eu
  rw [InvRegs.newEu]
  omega

/-- No mask removes a set bit: EB has a degree of at least 1 (R110). -/
theorem newEu_lt (h : InvReached a r) (hle : r.eb.toNat.log2 ≤ r.ea.toNat.log2) : r.newEu < 2 ^ 191 := by
  have hdeg := log2_newEu h hle
  have heb := one_le_log2 h.eb_ne_zero h.eb_ne_one
  exact lt_two_pow_of_log2_lt (by omega)

theorem euclidStep_ea_toNat (h : InvReached a r) (hle : r.eb.toNat.log2 ≤ r.ea.toNat.log2) :
    (mask191 (r.ea ^^^ (r.eb <<< r.gap))).toNat = r.newEa := by
  have hshift : r.eb.toNat.log2 + r.gap < 192 := by
    have := log2_toNat_lt h.ea_ne_zero
    rw [InvRegs.gap]
    omega
  rw [mask191_toNat, BitVec.toNat_xor, toNat_shiftLeft_of_log2 hshift]
  exact Nat.mod_eq_of_lt (newEa_lt_two_pow_191 h hle)

theorem euclidStep_eu_toNat (h : InvReached a r) (hle : r.eb.toNat.log2 ≤ r.ea.toNat.log2) :
    (r.eu ^^^ (r.ev <<< r.gap)).toNat = r.newEu := by
  have hshift : r.ev.toNat.log2 + r.gap < 191 := by
    have hev := log2_ev_add_gap h hle
    have heb := one_le_log2 h.eb_ne_zero h.eb_ne_one
    omega
  rw [BitVec.toNat_xor, toNat_shiftLeft_of_log2 hshift, InvRegs.newEu]

theorem bezout_newEa (h : InvReached a r) : residue r.newEa = residue r.newEu * fieldOf a := by
  rw [InvRegs.newEa, InvRegs.newEu, residue_xor, residue_xor, residue_shiftLeft, residue_shiftLeft,
    h.bezout_ea, h.bezout_eb, residue_elem, residue_elem]
  ring

theorem det_newEa (h : InvReached a r) :
    polyOf r.newEa * polyOf r.ev.toNat + polyOf r.eb.toNat * polyOf r.newEu = fieldPoly := by
  rw [InvRegs.newEa, InvRegs.newEu, polyOf_xor, polyOf_xor, polyOf_shiftLeft, polyOf_shiftLeft, ← h.det]
  linear_combination CharTwo.add_self_eq_zero (polyOf r.eb.toNat * polyOf r.ev.toNat * X ^ r.gap)

/-- Were the new EA zero, so would be the new EU, and the determinant would vanish. -/
theorem newEa_ne_zero (ha : a ≠ zeroElem) (h : InvReached a r)
    (hle : r.eb.toNat.log2 ≤ r.ea.toNat.log2) : r.newEa ≠ 0 := by
  intro hzero
  have hres : residue r.newEu = residue 0 := by
    have hbez := bezout_newEa h
    rw [hzero, residue_zero, eq_comm, residueRing_mul_eq_zero, fieldOf_eq_zero] at hbez
    exact (hbez.resolve_right ha).trans residue_zero.symm
  have heu : r.newEu = 0 := eq_of_residue_eq (newEu_lt h hle) (by decide) hres
  have hdet := det_newEa h
  rw [hzero, heu, polyOf_zero, zero_mul, mul_zero, add_zero] at hdet
  exact fieldPoly_monic.ne_zero hdet.symm

theorem InvReached.xorStep (ha : a ≠ zeroElem) (h : InvReached a r)
    (hle : r.eb.toNat.log2 ≤ r.ea.toNat.log2) :
    InvReached a
      { r with ea := mask191 (r.ea ^^^ (r.eb <<< r.gap)), eu := r.eu ^^^ (r.ev <<< r.gap) } := by
  have hea := euclidStep_ea_toNat h hle
  have heu := euclidStep_eu_toNat h hle
  refine ⟨?_, h.bezout_eb, ?_, ?_, ?_, ?_, h.eb_ne_zero, h.eb_ne_one⟩
  · rw [fieldOf, hea, heu]
    exact bezout_newEa h
  · rw [hea, heu]
    exact det_newEa h
  · have hlog := (Nat.log2_lt (newEa_ne_zero ha h hle)).mpr (newEa_lt h hle)
    have hdeg := h.deg_ev
    rw [hea]
    dsimp only
    omega
  · rw [heu]
    exact log2_newEu h hle
  · intro hzero
    exact newEa_ne_zero ha h hle (hea.symm.trans (congrArg BitVec.toNat hzero))

/-! ### Any step -/

/-- What is left to do: twice the degrees of EA and EB, and one for a swap to come (R113). -/
def InvRegs.measure (r : InvRegs) : Nat :=
  2 * (r.ea.toNat.log2 + r.eb.toNat.log2) + if r.ea.toNat.log2 < r.eb.toNat.log2 then 1 else 0

/-- While EA is not 1, a step keeps the relations and lowers the measure. -/
theorem InvReached.step (ha : a ≠ zeroElem) (h : InvReached a r) (hone : r.ea ≠ 1#192) :
    InvReached a (euclidStep r) ∧ (euclidStep r).measure < r.measure := by
  obtain hlt | hle := Nat.lt_or_ge r.ea.toNat.log2 r.eb.toNat.log2
  · rw [euclidStep_of_lt h hlt]
    refine ⟨h.swap hone, ?_⟩
    simp only [InvRegs.measure, if_pos hlt, if_neg hlt.not_gt]
    omega
  · rw [euclidStep_of_le h hle]
    refine ⟨h.xorStep ha hle, ?_⟩
    have hlog := (Nat.log2_lt (newEa_ne_zero ha h hle)).mpr (newEa_lt h hle)
    simp only [InvRegs.measure, euclidStep_ea_toNat h hle]
    split_ifs <;> omega

theorem InvReached.four_le_measure (h : InvReached a r) (hone : r.ea ≠ 1#192) : 4 ≤ r.measure := by
  have hea := one_le_log2 h.ea_ne_zero hone
  have heb := one_le_log2 h.eb_ne_zero h.eb_ne_one
  rw [InvRegs.measure]
  omega

theorem measure_invStart (ha : a ≠ zeroElem) : (invStart a).measure ≤ 763 := by
  have hea : (invStart a).ea.toNat.log2 < 191 := by
    rw [invStart, BitVec.toNat_setWidth_of_le (by decide)]
    exact log2_toNat_lt ha
  have heb : (invStart a).eb.toNat.log2 = 191 := reductionPolynomial_log2
  rw [InvRegs.measure, heb, if_pos hea]
  omega

end

/-! ### Any number of steps -/

theorem invStep_of_one {r : InvRegs} (h : r.ea = 1#192) : invStep r = r := if_pos h

section
variable {a : Elem}

theorem invReached_repeatStep (ha : a ≠ zeroElem) (k : Nat) :
    InvReached a (repeatStep invStep k (invStart a)) := by
  refine repeatStep_induct (InvReached a) invStep (fun r h => ?_) k _ (.start ha)
  by_cases hone : r.ea = 1#192
  · rwa [invStep_of_one hone]
  · rw [invStep, if_neg hone]
    exact (h.step ha hone).1

/-- As long as EA has not become 1, every step has lowered the measure. -/
theorem measure_repeatStep (ha : a ≠ zeroElem) (k : Nat) :
    (repeatStep invStep k (invStart a)).ea = 1#192
      ∨ (repeatStep invStep k (invStart a)).measure + k ≤ 763 := by
  induction k with
  | zero => exact .inr (measure_invStart ha)
  | succ k ih =>
    rw [repeatStep_succ']
    by_cases hone : (repeatStep invStep k (invStart a)).ea = 1#192
    · exact .inl (by rw [invStep_of_one hone, hone])
    · obtain ⟨-, hlt⟩ := (invReached_repeatStep ha k).step ha hone
      have hle := ih.resolve_left hone
      rw [invStep, if_neg hone]
      exact .inr (by omega)

/-- The inverter ends within 760 steps (R113). -/
theorem invFinish_ea (ha : a ≠ zeroElem) : (invFinish a).ea = 1#192 := by
  by_contra hone
  have hmeasure := (measure_repeatStep ha 760).resolve_left hone
  have hfour := (invReached_repeatStep ha 760).four_le_measure hone
  omega

/-- The function's loop and the unit's steps are one (R105, R107). -/
theorem euclidLoop_eq_repeatStep (k : Nat) (r : InvRegs) : euclidLoop k r = repeatStep invStep k r := by
  induction k generalizing r with
  | zero => rfl
  | succ k ih =>
    by_cases hone : r.ea = 1#192
    · rw [euclidLoop, if_pos hone, repeatStep_of_fixed _ _ _ (invStep_of_one hone)]
    · rw [euclidLoop, if_neg hone, ih, repeatStep_succ, invStep, if_neg hone]

theorem fieldInv_eq_invFinish (ha : a ≠ zeroElem) : fieldInv a = .ok (invFinish a).eu := by
  rw [fieldInv_of_ne_zero ha, euclidLoop_eq_repeatStep, invFinish]

/-- More steps than enough change nothing. -/
theorem repeatStep_invStep_add (ha : a ≠ zeroElem) (k : Nat) :
    repeatStep invStep (760 + k) (invStart a) = invFinish a := by
  rw [repeatStep_add]
  exact repeatStep_of_fixed _ k _ (invStep_of_one (invFinish_ea ha))

/-- On its way the inverter is finished when EA is 1. -/
theorem repeatStep_invStep_of_ea (ha : a ≠ zeroElem) {k : Nat}
    (h : (repeatStep invStep k (invStart a)).ea = 1#192) :
    repeatStep invStep k (invStart a) = invFinish a := by
  rw [← repeatStep_invStep_add ha k, Nat.add_comm, repeatStep_add,
    repeatStep_of_fixed _ 760 _ (invStep_of_one h)]

/-! ### The inverse -/

theorem fieldMul_invFinish (ha : a ≠ zeroElem) : fieldMul a (invFinish a).eu = oneElem := by
  have hbez := (invReached_repeatStep ha 760).bezout_ea
  rw [show repeatStep invStep 760 (invStart a) = invFinish a from rfl, invFinish_ea ha] at hbez
  refine fieldOf_injective ?_
  rw [fieldOf_fieldMul, mul_comm, ← hbez]
  rfl

theorem ne_zeroElem_of_fieldMul_eq_oneElem {c : Elem} (h : fieldMul a c = oneElem) : a ≠ zeroElem := by
  rintro rfl
  have hzero : fieldMul zeroElem c = zeroElem := fieldMul_eq_zeroElem.mpr (.inl rfl)
  exact absurd (hzero.symm.trans h) (by decide)

/-- INV answers the one element whose product with the operand is ONE (R115). -/
theorem fieldInv_eq_ok_iff {c : Elem} : fieldInv a = .ok c ↔ fieldMul a c = oneElem := by
  refine ⟨fun h => ?_, fun h => ?_⟩
  · have ha : a ≠ zeroElem := by
      rintro rfl
      exact nomatch ((fieldInv_eq_divByZero_iff zeroElem).mpr rfl).symm.trans h
    rw [← Result.ok.inj ((fieldInv_eq_invFinish ha).symm.trans h)]
    exact fieldMul_invFinish ha
  · have ha := ne_zeroElem_of_fieldMul_eq_oneElem h
    have hprod := congrArg fieldOf (h.trans (fieldMul_invFinish ha).symm)
    rw [fieldOf_fieldMul, fieldOf_fieldMul] at hprod
    rw [fieldInv_eq_invFinish ha,
      fieldOf_injective (residueRing_mul_left_cancel (mt fieldOf_eq_zero.mp ha) hprod)]

end

/-! ### The obligations -/

/-- Settles O49: the relations as residues and polynomials, carried back to bit vectors. -/
theorem inverterBezoutRelations : Obligations.InverterBezoutRelations := by
  intro a k ha
  have h := invReached_repeatStep ha k
  refine ⟨polymod_eq_polymod.mpr ?_, polymod_eq_polymod.mpr ?_, polyOf_injective ?_⟩
  · rw [residue_clmul, h.bezout_ea, fieldOf, fieldOf]
  · rw [residue_clmul, h.bezout_eb, fieldOf, fieldOf]
  · rw [polyOf_xor, polyOf_clmul, polyOf_clmul, h.det, fieldPoly]

/-- Settles O50: the values EA and EB never take, and the bounds on the unmasked values. -/
theorem inverterNeverMeetsZeroAndMasksNothing : Obligations.InverterNeverMeetsZeroAndMasksNothing := by
  intro a k ha
  have h := invReached_repeatStep ha k
  refine ⟨h.ea_ne_zero, h.eb_ne_zero, h.eb_ne_one, fun _ hle => ?_⟩
  rw [degree_of_ne_zero h.ea_ne_zero, degree_of_ne_zero h.eb_ne_zero, Int.ofNat_le] at hle
  rw [degree_sub_toNat h]
  exact ⟨newEa_lt_two_pow_191 h hle, newEu_lt h hle⟩

/-- Settles O51: the measure starts at 763 at most, and is at least 4 until EA is 1. -/
theorem inverterEndsInBoundedSteps : Obligations.InverterEndsInBoundedSteps := fun _ ha =>
  ⟨invFinish_ea ha, fieldInv_eq_invFinish ha⟩

/-- Settles O52: INV answers the solution of MUL(a, c) = ONE, which is a symmetric relation. -/
theorem invLaws : Obligations.InvLaws := by
  refine ⟨fun a ha => ?_, rfl, fieldInv_eq_ok_iff.mpr (fieldMul_oneElem oneElem)⟩
  have hone := fieldMul_invFinish ha
  have hone' := (fieldMul_comm _ _).trans hone
  refine ⟨_, fieldInv_eq_invFinish ha, hone, ne_zeroElem_of_fieldMul_eq_oneElem hone',
    fieldInv_eq_ok_iff.mpr hone', fun c' hc' => ?_⟩
  exact Result.ok.inj ((fieldInv_eq_ok_iff.mpr hc').symm.trans (fieldInv_eq_invFinish ha))

/-- Settles O39: `k` steps are on the way to the end, and the end is not left. -/
theorem inverterEndsWithTheInverse : Obligations.InverterEndsWithTheInverse := by
  intro s htracked hbusy hop ha
  obtain ⟨-, -, hinv, -⟩ := htracked hbusy
  obtain ⟨k, hk⟩ := hinv hop ha
  rw [hk, ← repeatStep_add, Nat.add_comm, repeatStep_invStep_add ha]
  refine ⟨invFinish_ea ha, fieldInv_eq_invFinish ha, fun hone => ?_⟩
  rw [repeatStep_invStep_of_ea ha hone, fieldInv_eq_invFinish ha]

/-- Settles O56: the nonzero residues have the order 2^191 - 1, so the power one short of it is the inverse. -/
theorem powOfGroupOrder : Obligations.PowOfGroupOrder := by
  intro a ha
  have horder : fieldPow a (2 ^ 191 - 2 + 1) = oneElem := fieldOf_injective (by
    rw [fieldOf_fieldPow, fieldOf_oneElem]
    exact residueRing_pow_order (mt fieldOf_eq_zero.mp ha))
  refine ⟨horder, fieldInv_eq_ok_iff.mpr ?_⟩
  rw [fieldMul_comm, ← horder, fieldPow_add, fieldPow_one]

end Sys2Proof.Machine
end
